-- ==== Sys2Proof/Word.lean ====
section
/-!
DEFINITION. The word types of the display engine (00_scope R11, R12): the command word, the byte, the
string ROM address. All values are unsigned.
-/

namespace Sys2Proof

/-- A command word or a host register (10_state R33, R35; 30_encoding R80). -/
abbrev Word := BitVec 32

/-- A bus byte, an operand byte, a ROM byte (00_scope R11). -/
abbrev Byte := BitVec 8

/-- A string ROM address (00_scope R11; 20_memory R59). -/
abbrev StrAddr := BitVec 16

end Sys2Proof
end

