-- ==== Sys2Proof/Config.lean ====
section
/-!
DEFINITION. What the build of the block fixes (00_scope R8), the fixed constants of the same table, and the free values:
opaque constants without a body, of which nothing in Lean can prove a value.
-/

namespace Sys2Proof

/-- `STALL_POLICY` (00_scope R8; 92_eei_decisions D11). -/
inductive StallPolicy where
  /-- `NONE`: the base block senses no line (60_exceptions R177). -/
  | none
  /-- `TIMEOUT`: the block senses SCL after each release of it (60_exceptions R176, R178). -/
  | timeout
  deriving DecidableEq, Repr, Inhabited

/-- The implementation parameters marked OPEN in 00_scope R8, except `T_STEP`, which is not modelled (R109). Their constraints
are `Params.legal` in Machine/Build.lean. -/
structure Params where
  /-- `LAST_CHAR`: the last character code with a glyph (R10). -/
  lastChar : Nat
  /-- `FONT`: the glyph table, column bytes in order (20_memory R56). -/
  font : List Byte
  /-- `PAGE_COUNT`: 4 or 8 (D21). -/
  pageCount : Nat
  /-- `PAGE_MASK`: 0x03 or 0x07 (D13). -/
  pageMask : Byte
  /-- `PAGE_MARKER` (D13). -/
  pageMarker : Byte
  /-- `SHIFT_CMD` (D14). -/
  shiftCmd : Byte
  /-- `INIT_SEQ` (D15; 20_memory R62). -/
  initSeq : List Byte
  /-- `ADDR_CMD` (R9, D16). -/
  addrCmd : Byte
  /-- `ADDR_DATA` (R9, D16). -/
  addrData : Byte
  /-- `STR_ROM`: a byte for each 16-bit address (D19); an address without a cell holds 0x00 (log entry 15). -/
  strRom : List Host.Cell
  /-- `HARDEN_GLYPH` (D18). -/
  hardenGlyph : Bool
  /-- `STALL_POLICY` (D11). -/
  stallPolicy : StallPolicy
  /-- `HOST_BASE` (D2). -/
  hostBase : Nat
  deriving DecidableEq, Repr, Inhabited

/-- The values the environment or the hardware leaves open at one step (00_scope R16, 10_state R42). -/
structure Draws where
  /-- `PERIPH_SDA`: the peripheral pulls SDA low (10_state R42). -/
  periphSda : Bool
  /-- `PERIPH_SCL`: the peripheral pulls SCL low (10_state R42). -/
  periphScl : Bool
  /-- `STALL`: the peripheral holds the line being released indefinitely (10_state R42). -/
  stall : Bool
  /-- Which of the two successors a stall has under policy `NONE`: hung (true) or continued (60_exceptions R177). -/
  hang : Bool
  /-- `Draw8()` for each of the five columns of a glyph read at this step (20_memory R58). -/
  glyph : Vector Byte 5
  /-- At a reset that finds both lines driven low, SDA rises before SCL (70_reset R202, U14). -/
  sdaRisesFirst : Bool
  /-- At a reset that finds no command in progress, CMD writes held and not yet accepted stay held (log entry 13). -/
  heldSurvive : Bool
  deriving DecidableEq, Repr, Inhabited

namespace Config

/-- `FIRST_CHAR` (00_scope R8). -/
def firstChar : Nat := 32

/-- `GLYPH_WIDTH` (00_scope R8). -/
def glyphWidth : Nat := 5

/-- `PANEL_WIDTH` (00_scope R8). -/
def panelWidth : Nat := 128

/-- `COL_HI_MARKER` (00_scope R8). -/
def colHiMarker : Byte := 0x10

/-- `SENTINEL` (00_scope R8, D20). -/
def sentinel : Byte := 0x00

/-- The parameters this chip was built with, before R8's constraints are imposed; a free value. -/
opaque rawParams : Params

/-- The draws of the step numbered by its argument; free values. -/
opaque freeDraws : Nat → Draws

end Config

end Sys2Proof
end

