-- ==== Sys2Proof/Machine/Memory.lean ====
section
/-!
DEFINITION. The one form in which a ROM of addressed bytes is held: a list of (address, byte) cells with rising addresses, all
below 65536, and no cell equal to what an unlisted address reads as (0x00, log entry 15). Every total map
from 16-bit addresses to bytes has exactly one such list.
-/

namespace Sys2Proof.Machine

/-- The byte at an address; an address without a cell reads as 0x00 (20_memory R59, log entry 15). -/
def Memory.read : List Host.Cell → Nat → Byte
  | [], _ => 0
  | (a, b) :: m, x => if a = x then b else Memory.read m x

/-- Cells in canonical form whose addresses are all at least `lo`. -/
def Memory.wfFrom (lo : Nat) : List Host.Cell → Bool
  | [] => true
  | (a, b) :: m => lo ≤ a && a < 65536 && b != 0 && Memory.wfFrom (a + 1) m

/-- The canonical form. -/
def Memory.wf (m : List Host.Cell) : Bool := Memory.wfFrom 0 m

/-- One byte stored, keeping the canonical form. `MemWrite` of 00_scope R14: no command performs it (20_memory R57); it makes
the contents of a ROM when a block is built. -/
def Memory.write : List Host.Cell → Nat → Byte → List Host.Cell
  | [], x, b => if b = 0 then [] else [(x, b)]
  | (a, c) :: m, x, b =>
    if x < a then (if b = 0 then (a, c) :: m else (x, b) :: (a, c) :: m)
    else if x = a then (if b = 0 then m else (x, b) :: m)
    else (a, c) :: Memory.write m x b

end Sys2Proof.Machine
end

