-- ==== Sys2Proof/Machine/Build.lean ====
section
/-!
DEFINITION. The build of the block: the quantities derived from its parameters, and the constraints on them (00_scope R8, R9, R10).
-/

namespace Sys2Proof

/-- `FONT_SIZE = (LAST_CHAR - FIRST_CHAR + 1) * GLYPH_WIDTH` (00_scope R8). -/
def Params.fontSize (p : Params) : Nat := (p.lastChar + 1 - Config.firstChar) * Config.glyphWidth

/-- `CLEAR_COUNT = PANEL_WIDTH * PAGE_COUNT` (00_scope R8). -/
def Params.clearCount (p : Params) : Nat := Config.panelWidth * p.pageCount

/-- The two address constants differ, and only in bits [1:0] (00_scope R9). -/
def Params.addrsLegal (p : Params) : Bool :=
  p.addrCmd.extractLsb' 2 6 == p.addrData.extractLsb' 2 6 && p.addrCmd.extractLsb' 0 2 != p.addrData.extractLsb' 0 2

/-- Every constraint the spec puts on the parameters (00_scope R8, R9, R10; 20_memory R64). -/
def Params.legal (p : Params) : Bool :=
  66 ≤ p.lastChar && p.lastChar ≤ 126 && p.font.length == p.fontSize &&
  (p.pageCount == 4 || p.pageCount == 8) && (p.pageMask == 0x03 || p.pageMask == 0x07) &&
  (p.pageMarker &&& p.pageMask) == 0 && !p.initSeq.isEmpty && p.addrsLegal &&
  Machine.Memory.wf p.strRom && p.hostBase % 8 == 0

/-- A build that meets every constraint. It stands only where Lean asks for some legal build; no proof can tell whether it
is the chip's (log entry 2). -/
def Params.someLegal : Params where
  lastChar := 66
  font := List.replicate 175 0
  pageCount := 4
  pageMask := 0x03
  pageMarker := 0
  shiftCmd := 0
  initSeq := [0]
  addrCmd := 0
  addrData := 1
  strRom := []
  hardenGlyph := false
  stallPolicy := .none
  hostBase := 0

/-- The parameters this chip was built with: any legal ones, and no proof can tell which. -/
def Config.params : Params := if Config.rawParams.legal then Config.rawParams else Params.someLegal

end Sys2Proof
end

