-- ==== Sys2Proof/Syntax.lean ====
section
/-!
DEFINITION. The nine commands of the opcode map (30_encoding R83), one constructor each, with the operands that
30_encoding R82 assembles. `open` is a word of Lean's own, so the transport commands are named after the
bus: OPEN is `openBus`, WRITE is `writeByte`, CLOSE is `closeBus`.
-/

namespace Sys2Proof

/-- A command with its operands. Every operand is unsigned (00_scope R11, 30_encoding R82). -/
inductive Instr where
  /-- OPEN addr (40_bus_transport R110). -/
  | openBus (addr : Byte)
  /-- WRITE b (40_bus_transport R112). -/
  | writeByte (b : Byte)
  /-- CLOSE (40_bus_transport R114). -/
  | closeBus
  /-- INIT (41_display_control R126). -/
  | init
  /-- SETCUR c, p (41_display_control R131). -/
  | setcur (c p : Byte)
  /-- PUTC c (42_text_output R145). -/
  | putc (c : Byte)
  /-- PUTS s (42_text_output R150). -/
  | puts (a : StrAddr)
  /-- SHIFT o (43_display_maintenance R160). -/
  | shift (o : Byte)
  /-- CLEAR (43_display_maintenance R164). -/
  | clear
  deriving DecidableEq, Repr

end Sys2Proof
end

