-- ==== Sys2Proof/WellFormed.lean ====
section
/-!
DEFINITION. The opcode map and what makes a command word legal (30_encoding R83-R87), and the assembler's source lines
with the check that every operand fits its field (30_encoding R90). Operands of `Instr` have the
width of their fields, so every `Instr` is well formed; what can be ill formed is a word and a source line.
-/

namespace Sys2Proof

/-- The names of the nine commands, without operands. -/
inductive Mnemonic where
  | openBus | writeByte | closeBus | init | setcur | putc | puts | shift | clear
  deriving DecidableEq, Repr

/-- The command an instruction is a form of. -/
def Instr.mnemonic : Instr → Mnemonic
  | .openBus _ => .openBus
  | .writeByte _ => .writeByte
  | .closeBus => .closeBus
  | .init => .init
  | .setcur _ _ => .setcur
  | .putc _ => .putc
  | .puts _ => .puts
  | .shift _ => .shift
  | .clear => .clear

/-- One row of the opcode map (30_encoding R83). -/
structure OpcodeRow where
  mnemonic : Mnemonic
  pattern : Word
  mask : Word
  deriving DecidableEq, Repr

/-- Whether a word encodes the command of a row: `(w & mask) = match` (30_encoding R83). -/
def OpcodeRow.hits (r : OpcodeRow) (w : Word) : Bool := w &&& r.mask == r.pattern

/-- The opcode map of 30_encoding R83, in its order. -/
def opcodeMap : List OpcodeRow :=
  [ ⟨.openBus, 0x10000000, 0xFF00FFFF⟩,
    ⟨.writeByte, 0x20000000, 0xFF00FFFF⟩,
    ⟨.closeBus, 0x30000000, 0xFFFFFFFF⟩,
    ⟨.init, 0x40000000, 0xFFFFFFFF⟩,
    ⟨.setcur, 0x50000000, 0xFF00FF00⟩,
    ⟨.putc, 0x60000000, 0xFF00FFFF⟩,
    ⟨.puts, 0x70000000, 0xFFFF0000⟩,
    ⟨.shift, 0x80000000, 0xFF00FFFF⟩,
    ⟨.clear, 0x90000000, 0xFFFFFFFF⟩ ]

/-- A word is legal when it encodes the command of some row (30_encoding R86, R87). -/
def legalWord (w : Word) : Bool := opcodeMap.any (·.hits w)

/-- One line of assembler source (30_encoding R90), the pseudo-commands of 30_encoding R91 among them. Operands are
numbers as written, which may not fit their fields. -/
inductive SourceLine where
  | openBus (addr : Nat)
  | writeByte (b : Nat)
  | closeBus
  | init
  | setcur (c p : Nat)
  | putc (c : Nat)
  | puts (a : Nat)
  | shift (o : Nat)
  | clear
  /-- SEND addr, b1, ..., bn. -/
  | send (addr : Nat) (bs : List Nat)
  /-- CMDS b1, ..., bn. -/
  | cmds (bs : List Nat)
  /-- DATA b1, ..., bn. -/
  | data (bs : List Nat)
  /-- HOME. -/
  | home
  /-- UNSHIFT. -/
  | unshift
  deriving DecidableEq, Repr

/-- A number that fits an 8-bit operand: 0 to 255 (30_encoding R90). -/
def fitsByte (n : Nat) : Bool := n < 256

/-- A number that fits the 16-bit operand: 0 to 65535 (30_encoding R90). -/
def fitsAddr (n : Nat) : Bool := n < 65536

/-- Every operand fits its field; otherwise the line is an assembly error (30_encoding R90). -/
def SourceLine.wellFormed : SourceLine → Bool
  | .openBus a => fitsByte a
  | .writeByte b => fitsByte b
  | .closeBus => true
  | .init => true
  | .setcur c p => fitsByte c && fitsByte p
  | .putc c => fitsByte c
  | .puts a => fitsAddr a
  | .shift o => fitsByte o
  | .clear => true
  | .send a bs => fitsByte a && bs.all fitsByte
  | .cmds bs => bs.all fitsByte
  | .data bs => bs.all fitsByte
  | .home => true
  | .unshift => true

end Sys2Proof
end

