-- ==== Sys2Proof/Machine/State.lean ====
section
/-!
DEFINITION. The state of the display engine as plain data (10_state R25-R43), and the state after reset (70_reset R201).
-/

namespace Sys2Proof.Machine

/-- What the block does to one line: no third value exists (10_state R29). -/
inductive Drive where
  /-- LOW: the block pulls the line low. -/
  | low
  /-- REL: the block releases the line. -/
  | rel
  deriving DecidableEq, Repr, Inhabited

/-- The four line actions (40_bus_transport R101). -/
inductive LineAction where
  | sdaLow | sdaRel | sclLow | sclRel
  deriving DecidableEq, Repr

/-- What a micro-step writes besides the line it acts on, in the same engine step: the session flag (40_bus_transport R104, R106) and
the datapath registers (10_state R25). -/
structure Update where
  session : Option Bool := none
  sr : Option Byte := none
  bitcnt : Option (BitVec 4) := none
  idx : Option (BitVec 11) := none
  col : Option (BitVec 3) := none
  deriving DecidableEq, Repr

/-- One entry of PENDING: a line action or an internal effect that remains (10_state R28). -/
inductive Micro where
  /-- Perform a line action and, in the same step, an update. -/
  | act (a : LineAction) (u : Update)
  /-- One character of the pre-scan of a hardened PUTS whose string starts at `start` (42_text_output R151). -/
  | scan (start : StrAddr)
  /-- Read the next character of a PUTS and send it, or close at the sentinel (42_text_output R150, R152). -/
  | nextChar
  /-- The timeout abort (60_exceptions R178). -/
  | abort
  deriving DecidableEq, Repr

/-- The three hardware error conditions (60_exceptions R170). -/
inductive HwError where
  | illegalCommand | outOfRangeCharacter | busTimeout
  deriving DecidableEq, Repr

/-- The model-only safety faults (60_exceptions R172). They are RECORDED in `State.faults` and stop nothing: the spec has the hardware
continue, so no step of this machine answers `Outcome.fault`. Recording is safe: a claim takes an empty fault set as its premise. -/
inductive Fault where
  /-- Recorded by every command when it is accepted in a session state its discipline forbids (60_exceptions R173). Safe. -/
  | sessionDiscipline (cmd : Mnemonic)
  /-- Recorded by `State.serve` for a host access outside CMD and STATUS, or not of 32 bits (10_state R37). Safe. -/
  | unmappedAccess (offset : Int) (width : Nat)
  /-- Recorded by `State.resetBlock` when a session is open (70_reset R203). Safe. -/
  | resetInSession
  deriving DecidableEq, Repr

/-- The reasons an instruction has no meaning. No arm of `exec` is refused. -/
inductive Refusal where
  /-- Raised by an arm of `exec` that has no meaning yet; no arm is in that case. Safe. -/
  | notModelled (mnemonic : String)
  deriving DecidableEq, Repr

/-- One host access to the register window (20_memory R64, R65). -/
structure HostAccess where
  /-- The host context that makes it (20_memory R68). -/
  ctx : Nat
  /-- A store, else a load. -/
  write : Bool
  /-- The address in the host's space. -/
  addr : Nat
  /-- The width in bits. -/
  width : Nat
  /-- The data of a store. -/
  data : Word
  deriving DecidableEq, Repr

/-- A CMD write that is held until the block accepts it (10_state R35). -/
structure HeldWrite where
  /-- The host context whose write it is (20_memory R68). -/
  ctx : Nat
  /-- The command word. -/
  word : Word
  deriving DecidableEq, Repr

/-- What can reach the block from outside between two engine steps. -/
inductive Event where
  /-- A host access is presented. -/
  | access (a : HostAccess)
  /-- RST is asserted (70_reset R200). -/
  | reset
  deriving DecidableEq, Repr

/-- The outside world's part in one step: an event or none, and the draws (10_state R42). -/
structure Input where
  event : Option Event
  draws : Draws
  deriving DecidableEq, Repr

/-- What a host context is answered (log entry 16). -/
inductive HostAnswer where
  /-- A load of CMD or STATUS returns this word. -/
  | data (ctx : Nat) (w : Word)
  /-- A STATUS write is done (10_state R34). -/
  | statusWritten (ctx : Nat)
  /-- A CMD write completes (10_state R35). -/
  | commandDone (ctx : Nat)
  deriving DecidableEq, Repr

/-- The order in which the two wires rise at a reset that finds both driven low (70_reset R202). -/
inductive RiseOrder where
  | sdaFirst | sclFirst
  deriving DecidableEq, Repr

/-- The state of the block, with the model's own fields after it (INVENTORY.md, State). -/
structure State where
  /-- SDA_DRV (10_state R29). -/
  sdaDrv : Drive
  /-- SCL_DRV (10_state R29). -/
  sclDrv : Drive
  /-- SESSION (10_state R31). -/
  session : Bool
  /-- BUSY (10_state R32). -/
  busy : Bool
  /-- ERR_ILL (10_state R33). -/
  errIll : Bool
  /-- ERR_OOR (10_state R33). -/
  errOor : Bool
  /-- ERR_TIMEOUT (10_state R33). -/
  errTimeout : Bool
  /-- CMDR (10_state R25). -/
  cmdr : Word
  /-- SR (10_state R25). -/
  sr : Byte
  /-- BITCNT (10_state R25). -/
  bitcnt : BitVec 4
  /-- IDX (10_state R25). -/
  idx : BitVec 11
  /-- COL (10_state R25). -/
  col : BitVec 3
  /-- SPTR (10_state R25). -/
  sptr : StrAddr
  /-- PENDING (10_state R28). -/
  pending : List Micro
  /-- The engine is hung (60_exceptions R177). -/
  hung : Bool
  /-- The output trace, oldest action first (00_scope R15). -/
  trace : List LineAction
  /-- CMD writes held until they are accepted, oldest first (10_state R35). -/
  cmdQueue : List HeldWrite
  /-- The host context whose CMD write carries the command in progress, and has not completed (10_state R35). -/
  carrier : Option Nat
  /-- Accesses of host contexts that wait for their own CMD write to complete, or behind such an access, oldest first (20_memory R66). -/
  waiting : List HostAccess
  /-- The model fault set, without repeats, in the order first recorded (60_exceptions R172). -/
  faults : List Fault
  /-- What the host has been answered, oldest first. Model's own. -/
  hostLog : List HostAnswer
  /-- How the wires rose at the latest reset, where it found both driven low. Model's own. -/
  riseOrder : Option RiseOrder
  /-- The input of the present step. Model's own. -/
  inp : Input
  /-- The coming inputs, oldest first; when they are used up, no event comes and the draws are free. Model's own. -/
  env : List Input
  /-- The number of the free draws that come next. Model's own. -/
  tick : Nat
  /-- The configuration, which nothing writes (10_state R41, log entry 1). -/
  cfg : Params
  deriving DecidableEq, Repr

/-- The machine right after power-on reset (10_state R43, 70_reset R201). The datapath registers' zeros are DESIGN CHOICE (log
entry 8), and so are the values of the model's own fields (log entries 3, 14, 16). -/
def State.reset : State where
  sdaDrv := .rel
  sclDrv := .rel
  session := false
  busy := false
  errIll := false
  errOor := false
  errTimeout := false
  cmdr := 0
  sr := 0
  bitcnt := 0
  idx := 0
  col := 0
  sptr := 0
  pending := []
  hung := false
  trace := []
  cmdQueue := []
  carrier := none
  waiting := []
  faults := []
  hostLog := []
  riseOrder := none
  inp := ⟨none, Config.freeDraws 0⟩
  env := []
  tick := 1
  cfg := Config.params

end Sys2Proof.Machine
end

