-- ==== Sys2Proof/Machine/Operands.lean ====
section
/-!
DEFINITION. What the display commands compute from their operands and the configuration: the cursor bytes (41_display_control R130),
the glyph mapper (42_text_output R140-R144) and the ROM reads (20_memory R56-R62).
-/

namespace Sys2Proof.Machine

/-- `ColLo(c)`: the low nibble of the column (41_display_control R130). -/
def colLo (c : Byte) : Byte := (c.extractLsb' 0 4).zeroExtend 8

/-- `ColHi(c)`: the high nibble of the column, with the marker OR-ed in (41_display_control R130). -/
def colHi (c : Byte) : Byte := Config.colHiMarker ||| (c.extractLsb' 4 4).zeroExtend 8

/-- `PageSel(p)` (41_display_control R130). -/
def pageSel (p : Params) (page : Byte) : Byte := p.pageMarker ||| (page &&& p.pageMask)

/-- The three payload bytes of SETCUR (41_display_control R131). -/
def cursorBytes (p : Params) (c page : Byte) : List Byte := [colLo c, colHi c, pageSel p page]

/-- The two payload bytes of SHIFT (43_display_maintenance R160). -/
def shiftBytes (p : Params) (o : Byte) : List Byte := [p.shiftCmd, o]

/-- `InRange(c)` (42_text_output R141). -/
def inRange (p : Params) (c : Byte) : Bool := Config.firstChar ≤ c.toNat && c.toNat ≤ p.lastChar

/-- `GlyphIndex(c, k)`, an exact integer (42_text_output R142). -/
def glyphIndex (c : Byte) (k : Nat) : Int := ((c.toNat : Int) - Config.firstChar) * Config.glyphWidth + k

/-- A read of FONT: the table's byte inside it, the draw outside (20_memory R58). -/
def fontRead (p : Params) (i : Int) (draw : Byte) : Byte :=
  if 0 ≤ i ∧ i < p.fontSize then p.font.getD i.toNat draw else draw

/-- A read of STR at a 16-bit address (20_memory R59). -/
def strRead (p : Params) (a : StrAddr) : Byte := Memory.read p.strRom a.toNat

/-- One of the `n` string ROM addresses from `a` on, modulo 65536, holds the sentinel. -/
def sentinelWithin (p : Params) : Nat → StrAddr → Bool
  | 0, _ => false
  | n + 1, a => strRead p a == Config.sentinel || sentinelWithin p n (a + 1)

/-- Some address of the string ROM holds the sentinel (42_text_output R149, R152). -/
def hasSentinel (p : Params) : Bool := sentinelWithin p 65536 0

/-- `Glyph(c, k)` with the draw for column `k` (42_text_output R142). -/
def glyphCol (p : Params) (d : Draws) (c : Byte) (k : Fin 5) : Byte := fontRead p (glyphIndex c k.val) (d.glyph[k])

/-- `Glyph(c)` (42_text_output R142). -/
def glyph (p : Params) (d : Draws) (c : Byte) : List Byte := (List.finRange 5).map (glyphCol p d c)

/-- `CharBytes(c)`: the spacing column, then the glyph (42_text_output R144). -/
def charBytes (p : Params) (d : Draws) (c : Byte) : List Byte := 0x00 :: glyph p d c

/-- `CharBytes(c)` with what COL takes at each glyph byte (42_text_output R145). -/
def charPayload (p : Params) (d : Draws) (c : Byte) : List (Update × Byte) :=
  ({}, 0x00) :: (List.finRange 5).map fun k : Fin 5 => ({ col := some (BitVec.ofNat 3 k.val) }, glyphCol p d c k)

/-- The first `n` characters of the string ROM from an address on, addresses modulo 65536 (42_text_output R149). -/
def strChars (p : Params) (a : StrAddr) : Nat → List Byte
  | 0 => []
  | n + 1 => strRead p a :: strChars p (a + 1) n

/-- The string at `a` is the `n` bytes before the first sentinel (42_text_output R149). -/
def isString (p : Params) (a : StrAddr) : Nat → Bool
  | 0 => strRead p a == Config.sentinel
  | n + 1 => strRead p a != Config.sentinel && isString p (a + 1) n

end Sys2Proof.Machine
end

