-- ==== Sys2Proof/Decode.lean ====
section
/-!
DEFINITION. The decoder (30_encoding R82, R88, R89), total on the 2^32 words and rejecting by name, and after it the
encoder, written from the bit patterns of 30_encoding R84.
-/

namespace Sys2Proof

/-- Why a word is no command (60_exceptions R174). -/
inductive IllegalWord where
  /-- OP is 0x0 or 0xA to 0xF (30_encoding R85). -/
  | reservedOpcode (op : BitVec 4)
  /-- The opcode is legal and a reserved-zero bit is set (30_encoding R86). -/
  | reservedBit (op : BitVec 4)
  deriving DecidableEq, Repr

/-- `OP = w[31:28]` (30_encoding R81). -/
def opField (w : Word) : BitVec 4 := w.extractLsb' 28 4

/-- `A = w[23:16]` (30_encoding R82). -/
def fieldA (w : Word) : Byte := w.extractLsb' 16 8

/-- `P = w[7:0]` (30_encoding R82). -/
def fieldP (w : Word) : Byte := w.extractLsb' 0 8

/-- `S = w[15:0]` (30_encoding R82). -/
def fieldS (w : Word) : StrAddr := w.extractLsb' 0 16

/-- The command of a row with the operands assembled from the word (30_encoding R82, R88). -/
def assembleOperands (m : Mnemonic) (w : Word) : Instr :=
  match m with
  | .openBus => .openBus (fieldA w)
  | .writeByte => .writeByte (fieldA w)
  | .closeBus => .closeBus
  | .init => .init
  | .setcur => .setcur (fieldA w) (fieldP w)
  | .putc => .putc (fieldA w)
  | .puts => .puts (fieldS w)
  | .shift => .shift (fieldA w)
  | .clear => .clear

/-- OP is reserved: 0x0 or 0xA to 0xF (30_encoding R85). -/
def reservedOp (op : BitVec 4) : Bool := op == 0 || 0xA ≤ op

/-- The decode and legality check of 30_encoding R88: the first row the word matches, or the reason it is illegal. -/
def decode (w : Word) : Except IllegalWord Instr :=
  match opcodeMap.find? (·.hits w) with
  | some r => .ok (assembleOperands r.mnemonic w)
  | none => if reservedOp (opField w) then .error (.reservedOpcode (opField w)) else .error (.reservedBit (opField w))

/-- A field's bits at its place in the command word, every other bit 0. -/
def fieldAt {n : Nat} (v : BitVec n) (lo : Nat) : Word := v.setWidth 32 <<< lo

/-- Format B: OP in [31:28], A in [23:16], the rest 0 (30_encoding R81, R84). -/
def formatB (op : BitVec 4) (a : Byte) : Word := fieldAt op 28 ||| fieldAt a 16

/-- Format Z: OP in [31:28], the rest 0 (30_encoding R81, R84). -/
def formatZ (op : BitVec 4) : Word := fieldAt op 28

/-- Format CP: OP in [31:28], A in [23:16], P in [7:0], the rest 0 (30_encoding R81, R84). -/
def formatCP (op : BitVec 4) (a p : Byte) : Word := fieldAt op 28 ||| fieldAt a 16 ||| fieldAt p 0

/-- Format S: OP in [31:28], S in [15:0], the rest 0 (30_encoding R81, R84). -/
def formatS (op : BitVec 4) (a : StrAddr) : Word := fieldAt op 28 ||| fieldAt a 0

/-- The command word of an instruction (30_encoding R84). -/
def encode : Instr → Word
  | .openBus a => formatB 0x1 a
  | .writeByte b => formatB 0x2 b
  | .closeBus => formatZ 0x3
  | .init => formatZ 0x4
  | .setcur c p => formatCP 0x5 c p
  | .putc c => formatB 0x6 c
  | .puts a => formatS 0x7 a
  | .shift o => formatB 0x8 o
  | .clear => formatZ 0x9

/-- The instruction the decoder reads from a table row's word: bits above `nbits` are 0, and a word is 32 bits
(30_encoding R80). -/
def decodeTableWord (nbits w : Nat) : Option Instr :=
  match decode (BitVec.ofNat 32 (w % 2 ^ nbits)) with
  | .ok i => some i
  | .error _ => none

end Sys2Proof
end

