-- ==== Sys2Proof/Machine/Ops.lean ====
section
/-!
DEFINITION. The named operations on the state: taking a step's input, accepting a command, line actions, raising an error (the
block's one form of exception, 60_exceptions R171), recording a model fault, completing a command.
-/

namespace Sys2Proof.Machine

/-- The input of the step `k` steps from now: the script's, and past its end no event with free draws (log entry 3). -/
def State.inputAt (s : State) (k : Nat) : Input :=
  match s.env[k]? with
  | some i => i
  | none => ⟨none, Config.freeDraws (s.tick + k)⟩

/-- Take the next input. -/
def State.latch (s : State) : State :=
  { s with inp := s.inputAt 0, env := s.env.tail, tick := s.tick + 1 }

/-- A command word is accepted: `CMDR <- w` and `BUSY <- 1` (10_state R35). -/
def State.accept (s : State) (w : Word) : State :=
  { s with cmdr := w, busy := true }

/-- PENDING becomes a command's expansion (10_state R28). -/
def State.load (s : State) (ms : List Micro) : State :=
  { s with pending := ms }

/-- Micro-steps put before those that remain. -/
def State.push (s : State) (ms : List Micro) : State :=
  { s with pending := ms ++ s.pending }

/-- `SPTR <- a` (42_text_output R150). -/
def State.setSptr (s : State) (a : StrAddr) : State :=
  { s with sptr := a }

/-- A fault set with one more member (60_exceptions R172). -/
def addFault (f : Fault) (fs : List Fault) : List Fault :=
  if f ∈ fs then fs else fs ++ [f]

/-- Record a model fault if a condition holds; the hardware's behaviour does not change (60_exceptions R172). -/
def State.recordIf (s : State) (c : Bool) (f : Fault) : State :=
  { s with faults := if c then addFault f s.faults else s.faults }

/-- The host is answered (log entry 16). -/
def State.answer (s : State) (r : HostAnswer) : State :=
  { s with hostLog := s.hostLog ++ [r] }

/-- The answer by which the CMD write that carries the command in progress completes (10_state R35). -/
def State.completion (s : State) : List HostAnswer :=
  match s.carrier with
  | some c => [.commandDone c]
  | none => []

/-- `raise E`: set the sticky bit, drop the rest of the command, BUSY <- 0, and the host's CMD write completes
(60_exceptions R171). -/
def State.raise (s : State) (e : HwError) : State :=
  { s with
    errIll := s.errIll || e == .illegalCommand
    errOor := s.errOor || e == .outOfRangeCharacter
    errTimeout := s.errTimeout || e == .busTimeout
    pending := []
    busy := false
    carrier := none
    hostLog := s.hostLog ++ s.completion }

/-- `Emit(a)`: one line action, appended to the trace even when the line is already in that state (00_scope R15, R24;
40_bus_transport R101). -/
def State.emit (s : State) (a : LineAction) : State :=
  { s with
    sdaDrv := match a with
      | .sdaLow => .low
      | .sdaRel => .rel
      | _ => s.sdaDrv
    sclDrv := match a with
      | .sclLow => .low
      | .sclRel => .rel
      | _ => s.sclDrv
    trace := s.trace ++ [a] }

/-- What a micro-step writes besides its line. -/
def State.update (s : State) (u : Update) : State :=
  { s with
    session := u.session.getD s.session
    sr := u.sr.getD s.sr
    bitcnt := u.bitcnt.getD s.bitcnt
    idx := u.idx.getD s.idx
    col := u.col.getD s.col }

/-- `SESSION <- b`. -/
def State.setSession (s : State) (b : Bool) : State :=
  { s with session := b }

/-- The command completes when PENDING is empty: BUSY <- 0, and the host's CMD write completes (10_state R28, R32, R35). -/
def State.finish (s : State) : State :=
  { s with
    busy := if s.pending = [] then false else s.busy
    carrier := if s.pending = [] then none else s.carrier
    hostLog := if s.pending = [] then s.hostLog ++ s.completion else s.hostLog }

/-- The engine stops where it is, until reset (60_exceptions R177). -/
def State.hang (s : State) : State :=
  { s with hung := true }

/-- A release action: the block stops driving a line low (60_exceptions R177). -/
def LineAction.isRelease : LineAction → Bool
  | .sdaRel => true
  | .sclRel => true
  | .sdaLow => false
  | .sclLow => false

/-- The line action of a micro-step, if it is one. -/
def Micro.action : Micro → Option LineAction
  | .act a _ => some a
  | .scan _ => none
  | .nextChar => none
  | .abort => none

/-- The line actions among micro-steps, in order. -/
def actionsOf (ms : List Micro) : List LineAction := ms.filterMap Micro.action

end Sys2Proof.Machine
end

