-- ==== Sys2Proof/Machine/Sequences.lean ====
section
/-!
DEFINITION. The three sequences of the two-wire master (40_bus_transport R104-R106) and the session built of them (00_scope R15), as
micro-steps of PENDING.
-/

namespace Sys2Proof.Machine

/-- `TxStart()`: SDA low, then SCL low with SESSION <- 1 in the same step (40_bus_transport R104). -/
def txStart : List Micro :=
  [.act .sdaLow {}, .act .sclLow { session := some true }]

/-- The remaining `n` data bits of a byte, most significant first, `v` being what SR holds (40_bus_transport R105). -/
def txBits : Nat → Byte → List Micro
  | 0, _ => []
  | n + 1, v =>
    .act .sdaLow {} ::
    ((if v.msb then [.act .sdaRel {}] else []) ++
    [.act .sclRel { sr := some (v <<< 1) }, .act .sclLow { bitcnt := some (BitVec.ofNat 4 (8 - n)) }] ++
    txBits n (v <<< 1))

/-- The acknowledgement clock: SDA released and one more clock pulse, whose value nobody reads (40_bus_transport R105, R108). -/
def txAck : List Micro :=
  [.act .sdaRel {}, .act .sclRel {}, .act .sclLow {}]

/-- `TxByte(v)`: SR takes the byte and BITCNT 0 with the first action, together with what the command's loop counters take
(40_bus_transport R105, 10_state R25). -/
def txByte (u : Update) (v : Byte) : List Micro :=
  .act .sdaLow { u with sr := some v, bitcnt := some 0 } :: (txBits 8 v ++ txAck).tail

/-- `TxStop()`: SDA low, SCL released, SDA released with SESSION <- 0 in the same step (40_bus_transport R106). -/
def txStop : List Micro :=
  [.act .sdaLow {}, .act .sclRel {}, .act .sdaRel { session := some false }]

/-- Payload bytes, each with what the command's loop counters take at its start. -/
def txBytes (bs : List (Update × Byte)) : List Micro :=
  bs.flatMap fun b => txByte b.1 b.2

/-- Bytes sent without a loop counter. -/
def plainBytes (bs : List Byte) : List (Update × Byte) := bs.map fun b => ({}, b)

/-- Bytes sent in a loop `for IDX in 0..n-1`, from index `k` on (10_state R25). -/
def indexedBytes (k : Nat) : List Byte → List (Update × Byte)
  | [] => []
  | b :: bs => ({ idx := some (BitVec.ofNat 11 k) }, b) :: indexedBytes (k + 1) bs

/-- `Session(addr, bytes)` (00_scope R15). -/
def session (addr : Byte) (bs : List (Update × Byte)) : List Micro :=
  txStart ++ txByte {} addr ++ txBytes bs ++ txStop

/-- `zeros(n)` (00_scope R17). -/
def zeros (n : Nat) : List Byte := List.replicate n 0

/-- The number of 1 bits of a byte (40_bus_transport R107). -/
def popcount (v : Byte) : Nat := (List.range 8).countP fun k => v.getLsbD k

/-- The number of line actions of `TxByte(v)` (40_bus_transport R107). -/
def byteActionCount (v : Byte) : Nat := 27 + popcount v

/-- The number of line actions of `Session(addr, bytes)` (40_bus_transport R107). -/
def sessionActionCount (addr : Byte) (bs : List Byte) : Nat :=
  2 + byteActionCount addr + (bs.map byteActionCount).sum + 3

end Sys2Proof.Machine
end

