-- ==== Sys2Proof/Machine/Display.lean ====
section
/-!
DEFINITION. The meanings of INIT and SETCUR (41_display_control R126-R135).
-/

namespace Sys2Proof.Machine

/-- A display command is accepted: it records the discipline fault when a session is open, and PENDING becomes its expansion
(41_display_control R125, 60_exceptions R173). -/
def State.beginDisplay (s : State) (i : Instr) (ms : List Micro) : State :=
  ((s.accept (encode i)).recordIf s.session (.sessionDiscipline i.mnemonic)).load ms

/-- The expansion of INIT (41_display_control R126). -/
def initExpansion (p : Params) : List Micro := session p.addrCmd (indexedBytes 0 p.initSeq)

/-- The expansion of SETCUR (41_display_control R131). -/
def setcurExpansion (p : Params) (c page : Byte) : List Micro := session p.addrCmd (plainBytes (cursorBytes p c page))

/-- INIT (41_display_control R126). -/
def execInit (s : State) : Host.Outcome State Fault Refusal :=
  .next (s.beginDisplay .init (initExpansion s.cfg))

/-- SETCUR (41_display_control R131). -/
def execSetcur (c page : Byte) (s : State) : Host.Outcome State Fault Refusal :=
  .next (s.beginDisplay (.setcur c page) (setcurExpansion s.cfg c page))

end Sys2Proof.Machine
end

