-- ==== Sys2Proof/Machine/Maintenance.lean ====
section
/-!
DEFINITION. The meanings of SHIFT and CLEAR (43_display_maintenance R160-R167).
-/

namespace Sys2Proof.Machine

/-- The expansion of SHIFT (43_display_maintenance R160). -/
def shiftExpansion (p : Params) (o : Byte) : List Micro := session p.addrCmd (plainBytes (shiftBytes p o))

/-- The expansion of CLEAR: SETCUR 0, 0; the blanking session; SHIFT 0 (43_display_maintenance R164). -/
def clearExpansion (p : Params) : List Micro :=
  setcurExpansion p 0 0 ++ session p.addrData (indexedBytes 0 (zeros p.clearCount)) ++ shiftExpansion p 0

/-- SHIFT (43_display_maintenance R160). -/
def execShift (o : Byte) (s : State) : Host.Outcome State Fault Refusal :=
  .next (s.beginDisplay (.shift o) (shiftExpansion s.cfg o))

/-- CLEAR (43_display_maintenance R164). -/
def execClear (s : State) : Host.Outcome State Fault Refusal :=
  .next (s.beginDisplay .clear (clearExpansion s.cfg))

end Sys2Proof.Machine
end

