-- ==== Sys2Proof/Machine/Text.lean ====
section
/-!
DEFINITION. The meanings of PUTC and PUTS (42_text_output R145-R156), and the internal effects with which PUTS reads its string one
character at a time, so that a string without a sentinel needs no infinite PENDING (10_state R28, 42_text_output R152).
-/

namespace Sys2Proof.Machine

/-- The expansion of PUTC (42_text_output R145); the draws of an out-of-range glyph are taken when the command is accepted (20_memory
R60). -/
def putcExpansion (p : Params) (d : Draws) (c : Byte) : List Micro := session p.addrData (charPayload p d c)

/-- PUTC is accepted. With HARDEN_GLYPH an out-of-range code is raised before anything else (60_exceptions R180). -/
def State.startPutc (s : State) (c : Byte) : State :=
  if s.cfg.hardenGlyph && !inRange s.cfg c then (s.accept (encode (.putc c))).raise .outOfRangeCharacter
  else s.beginDisplay (.putc c) (putcExpansion s.cfg s.inp.draws c)

/-- PUTC (42_text_output R145). -/
def execPutc (c : Byte) (s : State) : Host.Outcome State Fault Refusal := .next (s.startPutc c)

/-- What opens the one data session of PUTS; the characters follow (42_text_output R150). -/
def textOpening (p : Params) : List Micro := txStart ++ txByte {} p.addrData ++ [.nextChar]

/-- The data session of a PUTS of the string at `a` begins (42_text_output R150). -/
def State.beginText (s : State) (a : StrAddr) : State :=
  ((s.recordIf s.session (.sessionDiscipline .puts)).setSptr a).push (textOpening s.cfg)

/-- PUTS is accepted: the pre-scan comes first where HARDEN_GLYPH is set (42_text_output R150, R151). -/
def State.startPuts (s : State) (a : StrAddr) : State :=
  if s.cfg.hardenGlyph then ((s.accept (encode (.puts a))).setSptr a).load [.scan a]
  else ((s.accept (encode (.puts a))).load []).beginText a

/-- PUTS (42_text_output R150). -/
def execPuts (a : StrAddr) (s : State) : Host.Outcome State Fault Refusal := .next (s.startPuts a)

/-- The character SPTR points at. -/
def State.charAtSptr (s : State) : Byte := strRead s.cfg s.sptr

/-- The pre-scan passes over a character: one in range, and in a string ROM without a sentinel any, for there the scan goes on forever
(42_text_output R150, R152). That R152 goes before the pseudocode of R150 in such a ROM is the model's reading (log entry 30). -/
def State.scanPasses (s : State) : Bool := inRange s.cfg s.charAtSptr || !hasSentinel s.cfg

/-- One step of the pre-scan of the string at `start`: the sentinel ends it and the session begins; a character is passed over, SPTR going on
modulo 65536, or raises OutOfRangeCharacter (42_text_output R150-R152, 20_memory R61). -/
def State.scanStep (s : State) (start : StrAddr) : State :=
  if s.charAtSptr = Config.sentinel then s.beginText start
  else if s.scanPasses then (s.setSptr (s.sptr + 1)).push [.scan start]
  else s.raise .outOfRangeCharacter

/-- One turn of the loop of PUTS: the sentinel ends the session; any other character is sent as its six bytes, with this step's draws
for a glyph outside the table, and SPTR goes on modulo 65536 (42_text_output R150; 20_memory R58, R61). -/
def State.nextCharStep (s : State) : State :=
  if s.charAtSptr = Config.sentinel then s.push txStop
  else (s.setSptr (s.sptr + 1)).push (txBytes (charPayload s.cfg s.inp.draws s.charAtSptr) ++ [.nextChar])

end Sys2Proof.Machine
end

