-- ==== Sys2Proof/Machine/Transport.lean ====
section
/-!
DEFINITION. The meanings of the transport commands OPEN, WRITE and CLOSE (40_bus_transport R110-R115). A meaning is what happens when
the command is accepted: CMDR and BUSY, the checks, and PENDING with the command's expansion (10_state R28, R35); the engine
(Machine/Engine.lean) then performs PENDING, one micro-step a step.
-/

namespace Sys2Proof.Machine

/-- OPEN (40_bus_transport R110). -/
def execOpen (addr : Byte) (s : State) : Host.Outcome State Fault Refusal :=
  .next (((s.accept (encode (.openBus addr))).recordIf s.session (.sessionDiscipline .openBus)).load
    (txStart ++ txByte {} addr))

/-- WRITE (40_bus_transport R112). -/
def execWrite (b : Byte) (s : State) : Host.Outcome State Fault Refusal :=
  .next (((s.accept (encode (.writeByte b))).recordIf (!s.session) (.sessionDiscipline .writeByte)).load (txByte {} b))

/-- CLOSE (40_bus_transport R114). -/
def execClose (s : State) : Host.Outcome State Fault Refusal :=
  .next (((s.accept (encode .closeBus)).recordIf (!s.session) (.sessionDiscipline .closeBus)).load txStop)

end Sys2Proof.Machine
end

