-- ==== Sys2Proof/Machine/Dispatch.lean ====
section
/-!
DEFINITION. One arm per command of the opcode map (30_encoding R83).
-/

namespace Sys2Proof.Machine

def exec (i : Instr) (s : State) : Host.Outcome State Fault Refusal :=
  match i with
  | .openBus addr => Sys2Proof.Machine.execOpen addr s
  | .writeByte b => Sys2Proof.Machine.execWrite b s
  | .closeBus => Sys2Proof.Machine.execClose s
  | .init => Sys2Proof.Machine.execInit s
  | .setcur c p => Sys2Proof.Machine.execSetcur c p s
  | .putc c => Sys2Proof.Machine.execPutc c s
  | .puts a => Sys2Proof.Machine.execPuts a s
  | .shift o => Sys2Proof.Machine.execShift o s
  | .clear => Sys2Proof.Machine.execClear s

end Sys2Proof.Machine
end

