-- ==== Sys2Proof/Machine/Engine.lean ====
section
/-!
DEFINITION. The engine: one line action or one internal step (10_state R28), with the stall of a release action (60_exceptions R177)
and the timeout abort (60_exceptions R178).
-/

namespace Sys2Proof.Machine

/-- What a stall of the line just released does: policy NONE goes on or hangs; policy TIMEOUT aborts at an SCL release and senses no
SDA release; with no stall the engine goes on (60_exceptions R177). -/
def State.settle (s : State) (a : LineAction) : State :=
  if a.isRelease && s.inp.draws.stall then
    match s.cfg.stallPolicy with
    | .none => if s.inp.draws.hang then s.hang else s.finish
    | .timeout => if a = .sclRel then s.load [.abort] else s.finish
  else s.finish

/-- `Abort()`: SDA is released, SESSION <- 0, BusTimeout is raised (60_exceptions R178). -/
def State.abortStep (s : State) : State := ((s.emit .sdaRel).setSession false).raise .busTimeout

/-- One micro-step, already removed from PENDING. -/
def State.perform (s : State) : Micro → State
  | .act a u => ((s.emit a).update u).settle a
  | .scan start => s.scanStep start
  | .nextChar => s.nextCharStep
  | .abort => s.abortStep

/-- One engine step: the head of PENDING is removed and performed; a hung engine does nothing (10_state R28, 60_exceptions R177). -/
def State.engineStep (s : State) : State :=
  if s.hung then s
  else
    match s.pending with
    | [] => s.finish
    | m :: ms => (s.load ms).perform m

end Sys2Proof.Machine
end

