-- ==== Sys2Proof/Machine/Accept.lean ====
section
/-!
DEFINITION. How a CMD write becomes a command: accepted at once in an idle block, held in a busy one (10_state R35), decoded and checked
(30_encoding R88).
-/

namespace Sys2Proof.Machine

/-- The CMD write of a host context now carries the command in progress. -/
def State.carry (s : State) (c : Nat) : State :=
  { s with carrier := some c }

/-- The oldest held write leaves the queue to be accepted; `rest` stay held. -/
def State.takeWrite (s : State) (p : HeldWrite) (rest : List HeldWrite) : State :=
  { s with carrier := some p.ctx, cmdQueue := rest }

/-- A CMD write is held behind those already held. -/
def State.queueWrite (s : State) (p : HeldWrite) : State :=
  { s with cmdQueue := s.cmdQueue ++ [p] }

/-- An illegal word is accepted and raised in the same step: no line action, and only ERR_ILL, BUSY and CMDR change (30_encoding R88,
60_exceptions R174). -/
def State.acceptIllegal (s : State) (w : Word) : State := (s.accept w).raise .illegalCommand

/-- A CMD write is accepted: its word is decoded and checked, and the command executed (10_state R35, 30_encoding R88). -/
def acceptWord (w : Word) (s : State) : Host.Outcome State Fault Refusal :=
  match decode w with
  | .ok i => exec i s
  | .error _ => .next (s.acceptIllegal w)

/-- A CMD write is presented: accepted at once where BUSY is 0 and no older write is held, else held (10_state R35; that a write also waits
behind older held ones is log entry 4). -/
def presentWrite (c : Nat) (w : Word) (s : State) : Host.Outcome State Fault Refusal :=
  if s.busy = false ∧ s.cmdQueue = [] then acceptWord w (s.carry c) else .next (s.queueWrite ⟨c, w⟩)

/-- The block's own move: the engine's if a command is in progress, else the acceptance of the oldest held write, else nothing (70_reset
R204). -/
def blockStep (s : State) : Host.Outcome State Fault Refusal :=
  if s.busy then .next s.engineStep
  else
    match s.cmdQueue with
    | [] => .next s
    | p :: rest => acceptWord p.word (s.takeWrite p rest)

end Sys2Proof.Machine
end

