-- ==== Sys2Proof/Machine/Flags.lean ====
section
/-!
DEFINITION. The STATUS register (10_state R33, R34, R36) and the wire levels (40_bus_transport R102).
-/

namespace Sys2Proof.Machine

/-- The bit of a condition at a place of a 32-bit register. -/
def bitAt (b : Bool) (k : Nat) : Word := (BitVec.ofBool b).zeroExtend 32 <<< k

/-- The STATUS register (10_state R33). -/
def State.status (s : State) : Word :=
  bitAt s.busy 0 ||| bitAt s.session 1 ||| bitAt s.errIll 3 ||| bitAt s.errOor 4 ||| bitAt s.errTimeout 5 |||
  bitAt (s.sdaDrv == .rel) 6 ||| bitAt (s.sclDrv == .rel) 7 ||| bitAt s.cfg.hardenGlyph 8 |||
  bitAt (s.cfg.stallPolicy == .timeout) 9

/-- What a read of CMD returns (10_state R35). -/
def cmdReadValue : Word := 0x00000000

/-- A STATUS write: an error bit written 1 is cleared, every other bit is ignored (10_state R34). -/
def State.clearErrors (s : State) (w : Word) : State :=
  { s with
    errIll := s.errIll && !w.getLsbD 3
    errOor := s.errOor && !w.getLsbD 4
    errTimeout := s.errTimeout && !w.getLsbD 5 }

/-- `SDA_WIRE`: high when no agent pulls SDA low (40_bus_transport R102). -/
def State.sdaWire (s : State) : Bool := s.sdaDrv == .rel && !s.inp.draws.periphSda

/-- `SCL_WIRE`: high when no agent pulls SCL low (40_bus_transport R102). -/
def State.sclWire (s : State) : Bool := s.sclDrv == .rel && !s.inp.draws.periphScl

end Sys2Proof.Machine
end

