-- ==== Sys2Proof/Machine/HostPort.lean ====
section
/-!
DEFINITION. The host's side of the block: the register window (10_state R33-R37), the program order of each host context (20_memory R66,
R68), reset (70_reset R200-R203), and the place a command word waits in.
-/

namespace Sys2Proof.Machine

/-- The address of CMD (10_state R37). -/
def cmdAddr (p : Params) : Nat := p.hostBase + 0x00

/-- The address of STATUS (10_state R37). -/
def statusAddr (p : Params) : Nat := p.hostBase + 0x04

/-- A 32-bit access of CMD: a write is presented, a read returns 0 (10_state R35). -/
def State.accessCmd (s : State) (a : HostAccess) : Host.Outcome State Fault Refusal :=
  if a.write then presentWrite a.ctx a.data s else .next (s.answer (.data a.ctx cmdReadValue))

/-- A 32-bit access of STATUS, whatever BUSY is (10_state R34). -/
def State.accessStatus (s : State) (a : HostAccess) : State :=
  if a.write then (s.clearErrors a.data).answer (.statusWritten a.ctx) else s.answer (.data a.ctx s.status)

/-- One host access takes effect. Outside the two registers, or not 32 bits wide, it is the fault UnmappedAccess and has no effect (10_state
R37, 20_memory R64, 60_exceptions R172). -/
def State.serve (s : State) (a : HostAccess) : Host.Outcome State Fault Refusal :=
  if a.width = 32 ∧ a.addr = cmdAddr s.cfg then s.accessCmd a
  else if a.width = 32 ∧ a.addr = statusAddr s.cfg then .next (s.accessStatus a)
  else .next (s.recordIf true (.unmappedAccess ((a.addr : Int) - s.cfg.hostBase) a.width))

/-- A host context has a CMD write that is not complete: carried out or held (10_state R35). -/
def State.inFlight (s : State) (c : Nat) : Bool := s.carrier == some c || s.cmdQueue.any (·.ctx == c)

/-- A host context may not proceed: its CMD write is not complete, or an older access of its own waits (10_state R35, 20_memory R66). -/
def State.blocked (s : State) (c : Nat) : Bool := s.inFlight c || s.waiting.any (·.ctx == c)

/-- An access waits behind those that wait already. -/
def State.hold (s : State) (a : HostAccess) : State :=
  { s with waiting := s.waiting ++ [a] }

/-- An access that waited waits no longer. -/
def State.release (s : State) (a : HostAccess) : State :=
  { s with waiting := s.waiting.erase a }

/-- The oldest waiting access whose context has no CMD write that is not complete; of its own context it is the oldest too. -/
def State.ready (s : State) : Option HostAccess := s.waiting.find? fun a => !s.inFlight a.ctx

/-- An access comes: it takes effect, or waits if its context may not proceed, so that the accesses of a context take effect in its program
order (20_memory R66). -/
def State.present (s : State) (a : HostAccess) : Host.Outcome State Fault Refusal :=
  if s.blocked a.ctx then .next (s.hold a) else s.serve a

/-- A step into which nothing comes from outside: an access that need wait no longer takes effect, else the block moves (log entry 28). -/
def ownMove (s : State) : Host.Outcome State Fault Refusal :=
  match s.ready with
  | some a => (s.release a).serve a
  | none => blockStep s

/-- How the wires rise when reset releases both at once: open where both were low, else nothing to say (70_reset R202). -/
def State.resetRise (s : State) : Option RiseOrder :=
  if s.sdaDrv = .low ∧ s.sclDrv = .low then
    some (if s.inp.draws.sdaRisesFirst then .sdaFirst else .sclFirst)
  else none

/-- The held writes that outlast reset: none where a command is abandoned, since they are blocked on it too (10_state R35, 70_reset R201); where
no command is in progress the draw decides (log entry 13). -/
def State.heldAfterReset (s : State) : List HeldWrite :=
  if !s.busy && s.inp.draws.heldSurvive then s.cmdQueue else []

/-- The answers by which the CMD writes that reset ends complete, without further effect: the one that carries the abandoned command and the held
ones (70_reset R201). -/
def State.resetAnswers (s : State) : List HostAnswer :=
  s.completion ++ (if !s.busy && s.inp.draws.heldSurvive then [] else s.cmdQueue.map fun p => .commandDone p.ctx)

/-- RST: every piece of state takes its reset value; no line action; the fault set is kept, with ResetInSession if a session was open;
the configuration is unchanged; the accesses of host contexts still to come are the host's and stay (70_reset R201-R203; 60_exceptions
R172). -/
def State.resetBlock (s : State) : State :=
  { State.reset with
    cmdQueue := s.heldAfterReset
    waiting := s.waiting
    faults := if s.session then addFault .resetInSession s.faults else s.faults
    hostLog := s.hostLog ++ s.resetAnswers
    riseOrder := s.resetRise
    inp := s.inp
    env := s.env
    tick := s.tick
    cfg := s.cfg }

/-- An input without its event. -/
def Input.quiet (i : Input) : Input := { i with event := none }

/-- The state in which the next step accepts this word: host context 0 writes it, it heads the held writes, the engine is idle, and neither an
event nor a waiting access comes first. -/
def State.placeCommand (s : State) (w : Word) : State :=
  { s with
    cmdQueue := ⟨0, w⟩ :: s.cmdQueue
    carrier := none
    waiting := []
    busy := false
    env := match s.env with
      | [] => []
      | i :: is => i.quiet :: is }

end Sys2Proof.Machine
end

