-- ==== Sys2Proof/Machine/Step.lean ====
section
/-!
DEFINITION. One step of the machine. It takes one input: RST, a host access, or nothing from outside, in which case a waiting access takes
effect or the block moves (10_state R28, R35; 20_memory R66; 70_reset R200).
-/

namespace Sys2Proof.Machine

/-- One step. -/
def step (s : State) : Host.Outcome State Fault Refusal :=
  match (s.inputAt 0).event with
  | some .reset => .next s.latch.resetBlock
  | some (.access a) => s.latch.present a
  | none => ownMove s.latch

/-- The state in which the next step runs the command of this word (log entry 17). -/
def State.withFetchWord (s : State) (nbits w : Nat) : State :=
  s.placeCommand (BitVec.ofNat 32 (w % 2 ^ nbits))

end Sys2Proof.Machine
end

