-- ==== Sys2Proof/Machine/Assembler.lean ====
section
/-!
DEFINITION. The assembler (30_encoding R90, R91): source lines to commands and words, and the reading of a line's text.
-/

namespace Sys2Proof.Machine

/-- A number as an 8-bit operand; `none` is an assembly error (30_encoding R90). -/
def byteOperand (n : Nat) : Option Byte := if fitsByte n then some (BitVec.ofNat 8 n) else none

/-- A number as the 16-bit operand; `none` is an assembly error (30_encoding R90). -/
def addrOperand (n : Nat) : Option StrAddr := if fitsAddr n then some (BitVec.ofNat 16 n) else none

/-- The commands of a list of bytes in one session: OPEN, the WRITEs, CLOSE (30_encoding R91). -/
def sendCommands (addr : Byte) (bs : List Byte) : List Instr :=
  .openBus addr :: (bs.map .writeByte ++ [.closeBus])

/-- The commands of a source line; `none` is an assembly error (30_encoding R90, R91). CMDS and DATA use the configured addresses. -/
def assemble (p : Params) : SourceLine → Option (List Instr)
  | .openBus a => (byteOperand a).map fun a => [.openBus a]
  | .writeByte b => (byteOperand b).map fun b => [.writeByte b]
  | .closeBus => some [.closeBus]
  | .init => some [.init]
  | .setcur c g => (byteOperand c).bind fun c => (byteOperand g).map fun g => [.setcur c g]
  | .putc c => (byteOperand c).map fun c => [.putc c]
  | .puts a => (addrOperand a).map fun a => [.puts a]
  | .shift o => (byteOperand o).map fun o => [.shift o]
  | .clear => some [.clear]
  | .send a bs => (byteOperand a).bind fun a => (bs.mapM byteOperand).map fun bs => sendCommands a bs
  | .cmds bs => (bs.mapM byteOperand).map fun bs => sendCommands p.addrCmd bs
  | .data bs => (bs.mapM byteOperand).map fun bs => sendCommands p.addrData bs
  | .home => some [.setcur 0 0]
  | .unshift => some [.shift 0]

/-- The command words of a source line. -/
def assembleWords (p : Params) (l : SourceLine) : Option (List Word) := (assemble p l).map (·.map encode)

/-- The value of a decimal digit. -/
def decDigit (c : Char) : Option Nat :=
  if 48 ≤ c.toNat ∧ c.toNat ≤ 57 then some (c.toNat - 48) else none

/-- The value of a hexadecimal digit. -/
def hexDigit (c : Char) : Option Nat :=
  if 97 ≤ c.toNat ∧ c.toNat ≤ 102 then some (c.toNat - 87)
  else if 65 ≤ c.toNat ∧ c.toNat ≤ 70 then some (c.toNat - 55)
  else decDigit c

/-- Digits in a base, the value so far first. -/
def readDigits (base : Nat) (digit : Char → Option Nat) (v : Nat) : List Char → Option Nat
  | [] => some v
  | c :: cs => (digit c).bind fun d => readDigits base digit (base * v + d) cs

/-- A number: hexadecimal after 0x, a character literal for its code, else decimal (30_encoding R90). -/
def readNumber (t : List Char) : Option Nat :=
  match t with
  | [] => none
  | '0' :: 'x' :: c :: cs => readDigits 16 hexDigit 0 (c :: cs)
  | ['\'', c, '\''] => some c.toNat
  | c :: cs => readDigits 10 decDigit 0 (c :: cs)

/-- A string address: a number, or a label of STR_ROM, which stands for its address (30_encoding R90). -/
def readAddress (labels : List (List Char × Nat)) (t : List Char) : Option Nat := (readNumber t).or (labels.lookup t)

/-- White space inside a line. -/
def isBlank (c : Char) : Bool := c == ' ' || c == '\t'

/-- The word being read, reversed, put before the words that follow. -/
def endWord (cur : List Char) (words : List (List Char)) : List (List Char) :=
  if cur.isEmpty then words else cur.reverse :: words

/-- The words of a line, separated by blanks and commas, up to a semicolon. A character literal may begin a word, whatever its character, a
blank, a comma or a semicolon too; a quote inside a word is a character of that word. The
first argument is the word being read, reversed. -/
def splitWords : List Char → List Char → List (List Char)
  | cur, [] => endWord cur []
  | [], '\'' :: c :: '\'' :: cs => splitWords ['\'', c, '\''] cs
  | cur, c :: cs =>
    if c = ';' then endWord cur []
    else if isBlank c || c == ',' then endWord cur (splitWords [] cs)
    else splitWords (c :: cur) cs

/-- The source line of a mnemonic and its numbers; `none` where the number of operands is wrong or the mnemonic is none of 30_encoding
R90 and R91. That CMDS and DATA may have no byte, as R91 says of SEND alone, is the model's choice (log entry 25). -/
def lineOf (m : List Char) (ns : List Nat) : Option SourceLine :=
  if m = ['O', 'P', 'E', 'N'] then (match ns with | [a] => some (.openBus a) | _ => none)
  else if m = ['W', 'R', 'I', 'T', 'E'] then (match ns with | [b] => some (.writeByte b) | _ => none)
  else if m = ['C', 'L', 'O', 'S', 'E'] then (match ns with | [] => some .closeBus | _ => none)
  else if m = ['I', 'N', 'I', 'T'] then (match ns with | [] => some .init | _ => none)
  else if m = ['S', 'E', 'T', 'C', 'U', 'R'] then (match ns with | [c, g] => some (.setcur c g) | _ => none)
  else if m = ['P', 'U', 'T', 'C'] then (match ns with | [c] => some (.putc c) | _ => none)
  else if m = ['P', 'U', 'T', 'S'] then (match ns with | [a] => some (.puts a) | _ => none)
  else if m = ['S', 'H', 'I', 'F', 'T'] then (match ns with | [o] => some (.shift o) | _ => none)
  else if m = ['C', 'L', 'E', 'A', 'R'] then (match ns with | [] => some .clear | _ => none)
  else if m = ['S', 'E', 'N', 'D'] then (match ns with | a :: bs => some (.send a bs) | [] => none)
  else if m = ['C', 'M', 'D', 'S'] then some (.cmds ns)
  else if m = ['D', 'A', 'T', 'A'] then some (.data ns)
  else if m = ['H', 'O', 'M', 'E'] then (match ns with | [] => some .home | _ => none)
  else if m = ['U', 'N', 'S', 'H', 'I', 'F', 'T'] then (match ns with | [] => some .unshift | _ => none)
  else none

/-- The mnemonic of PUTS, the one command with a string address. -/
def putsName : List Char := ['P', 'U', 'T', 'S']

/-- One operand of a line: only the string address of PUTS may be a label (30_encoding R90). -/
def readOperand (labels : List (List Char × Nat)) (m : List Char) : List Char → Option Nat :=
  if m = putsName then readAddress labels else readNumber

/-- The source line a text says, without its operands' range check, which is `SourceLine.wellFormed`'s; `none` where it says none. -/
def readLine (labels : List (List Char × Nat)) (t : List Char) : Option SourceLine :=
  match splitWords [] t with
  | [] => none
  | m :: ws => (ws.mapM (readOperand labels m)).bind (lineOf m)

/-- The command words of a line's text; `none` is an assembly error (30_encoding R90). That a line without a word, which is blank or holds a
comment alone, is no error and gives no command is the model's choice (log entry 25). -/
def assembleText (p : Params) (labels : List (List Char × Nat)) (t : List Char) : Option (List Word) :=
  if (splitWords [] t).isEmpty then some [] else (readLine labels t).bind (assembleWords p)

end Sys2Proof.Machine
end

