-- ==== Sys2Proof/Machine/Frames.lean ====
section
/-!
DEFINITION. The decoding of a trace of line actions into bus frames (40_bus_transport R118): the view of an ideal receiver.
-/

namespace Sys2Proof.Machine

/-- The bits of one frame and whether a stop condition ended it. -/
structure RawFrame where
  bits : List Bool
  terminated : Bool
  deriving DecidableEq, Repr

/-- What the replay tracks: the two drive states, the sampled bit, the open frame's bits, the frames closed so far. -/
structure Receiver where
  sda : Drive
  scl : Drive
  sampled : Option Bool
  cur : Option (List Bool)
  closed : List RawFrame
  deriving DecidableEq, Repr

/-- The replay begins with both lines released. -/
def Receiver.start : Receiver := ⟨.rel, .rel, none, none, []⟩

/-- The frames with the open one closed. -/
def Receiver.close (r : Receiver) (terminated : Bool) : List RawFrame :=
  match r.cur with
  | some bits => r.closed ++ [⟨bits, terminated⟩]
  | none => r.closed

/-- SDA falls while SCL is released: a frame starts, and one already open is unterminated. -/
def Receiver.onSdaLow (r : Receiver) : Receiver :=
  if r.sda = .rel ∧ r.scl = .rel then ⟨.low, r.scl, none, some [], r.close false⟩ else { r with sda := .low }

/-- SDA rises while SCL is released: the open frame ends, terminated. -/
def Receiver.onSdaRel (r : Receiver) : Receiver :=
  if r.sda = .low ∧ r.scl = .rel ∧ r.cur.isSome then ⟨.rel, r.scl, none, none, r.close true⟩
  else { r with sda := .rel }

/-- SCL rises: SDA is sampled. -/
def Receiver.onSclRel (r : Receiver) : Receiver :=
  if r.scl = .low then { r with scl := .rel, sampled := some (r.sda == .rel) } else r

/-- SCL falls: the clock pulse is complete, and inside a frame the sampled bit counts. -/
def Receiver.onSclLow (r : Receiver) : Receiver :=
  if r.scl = .rel then { r with scl := .low, cur := r.cur.map (· ++ r.sampled.toList) } else r

/-- One action of the replay. -/
def Receiver.on (r : Receiver) : LineAction → Receiver
  | .sdaLow => r.onSdaLow
  | .sdaRel => r.onSdaRel
  | .sclRel => r.onSclRel
  | .sclLow => r.onSclLow

/-- A frame as reported (40_bus_transport R118). -/
inductive Frame where
  /-- Terminated, with its address byte and payload bytes. -/
  | wellFormed (addr : Byte) (payload : List Byte)
  /-- Terminated, with no bits. -/
  | empty
  /-- Terminated, with a bit count that is not a multiple of 9. -/
  | malformed (bits : List Bool)
  /-- Not terminated. -/
  | unterminated (bits : List Bool)
  deriving DecidableEq, Repr

/-- Bits of one byte, most significant first. -/
def byteOfBits (bs : List Bool) : Byte :=
  bs.foldl (fun v b => v <<< 1 ||| (BitVec.ofBool b).zeroExtend 8) 0

/-- The bytes of groups of nine bits, the ninth of each dropped; nothing where a group is short. -/
def bytesOfBits : List Bool → Option (List Byte)
  | [] => some []
  | b7 :: b6 :: b5 :: b4 :: b3 :: b2 :: b1 :: b0 :: _ack :: rest =>
    (bytesOfBits rest).map (byteOfBits [b7, b6, b5, b4, b3, b2, b1, b0] :: ·)
  | _ => none

/-- A raw frame read as bytes. That a malformed frame is reported by its bits alone, its complete groups of nine not read as bytes, is the
model's choice (log entry 29). -/
def RawFrame.read (f : RawFrame) : Frame :=
  if f.terminated then
    match bytesOfBits f.bits with
    | some (a :: bs) => .wellFormed a bs
    | some [] => .empty
    | none => .malformed f.bits
  else .unterminated f.bits

/-- The frames of a trace, a frame still open at its end last (40_bus_transport R118). -/
def decodeFrames (t : List LineAction) : List Frame :=
  ((t.foldl Receiver.on Receiver.start).close false).map RawFrame.read

/-- A frame of the trace, not an unterminated one. -/
def Frame.isTerminated : Frame → Bool
  | .wellFormed _ _ => true
  | .empty => true
  | .malformed _ => true
  | .unterminated _ => false

/-- The terminated frames: the frames of the trace (40_bus_transport R118). -/
def framesOf (t : List LineAction) : List Frame := (decodeFrames t).filter Frame.isTerminated

end Sys2Proof.Machine
end

