-- ==== Sys2Proof/Safety.lean ====
section
/-!
DEFINITION. The terms in which claims about the engine are stated: the line actions of a command written from 40_bus_transport
R104-R106 without the engine's micro-steps, a peripheral that answers, the end of a command, and the invariants.
-/

namespace Sys2Proof.Machine

/-- The actions that send bit `v[7-k]` (40_bus_transport R105). -/
def bitActions (v : Byte) (k : Nat) : List LineAction :=
  [.sdaLow] ++ (if v.getLsbD (7 - k) then [.sdaRel] else []) ++ [.sclRel, .sclLow]

/-- The actions of `TxByte(v)`: eight bits, then the acknowledgement clock (40_bus_transport R105). -/
def byteActions (v : Byte) : List LineAction :=
  (List.range 8).flatMap (bitActions v) ++ [.sdaRel, .sclRel, .sclLow]

/-- The actions of `TxStart()` (40_bus_transport R104). -/
def startActions : List LineAction := [.sdaLow, .sclLow]

/-- The actions of `TxStop()` (40_bus_transport R106). -/
def stopActions : List LineAction := [.sdaLow, .sclRel, .sdaRel]

/-- The actions of `Session(addr, bytes)` (00_scope R15). -/
def sessionActions (addr : Byte) (bs : List Byte) : List LineAction :=
  startActions ++ byteActions addr ++ bs.flatMap byteActions ++ stopActions

/-- The payload of SETCUR, from the formulas of 41_display_control R129 and R130. -/
def setcurPayload (p : Params) (c page : Byte) : List Byte :=
  [c &&& 0x0F, 0x10 ||| (c >>> 4), p.pageMarker ||| (page &&& p.pageMask)]

/-- The actions of CLEAR: three sessions (43_display_maintenance R164). -/
def clearActions (p : Params) : List LineAction :=
  sessionActions p.addrCmd [0x00, 0x10, p.pageMarker] ++
  sessionActions p.addrData (List.replicate (128 * p.pageCount) 0x00) ++
  sessionActions p.addrCmd [p.shiftCmd, 0x00]

/-- The five table bytes of an in-range character, at index `(c - 32) * 5` (20_memory R56). -/
def tableGlyph (p : Params) (c : Byte) : List Byte := (p.font.drop ((c.toNat - 32) * 5)).take 5

/-- The two drive states and the session flag. -/
structure Lines where
  sda : Drive
  scl : Drive
  session : Bool
  deriving DecidableEq, Repr

/-- What a state's lines are. -/
def State.lines (s : State) : Lines := ⟨s.sdaDrv, s.sclDrv, s.session⟩

/-- Both lines released and no session: the end of every display command (41_display_control R125). -/
def Lines.idle : Lines := ⟨.rel, .rel, false⟩

/-- SDA released, SCL low, a session open: between the bytes of a session (40_bus_transport R105, R110). -/
def Lines.betweenBytes : Lines := ⟨.rel, .low, true⟩

/-- For the coming `n` steps the peripheral answers and nothing new comes from outside (60_exceptions R190). -/
def State.Quiet (s : State) (n : Nat) : Prop :=
  ∀ k < n, (s.inputAt k).event = none ∧ (s.inputAt k).draws.stall = false

/-- As `Quiet`, and no access that waits may proceed, so that the block is left to itself while BUSY stays 1. -/
def State.Calm (s : State) (n : Nat) : Prop := s.ready = none ∧ s.Quiet n

/-- For the coming `n` steps RST is not asserted; host accesses may come. -/
def State.NoReset (s : State) (n : Nat) : Prop :=
  ∀ k < n, (s.inputAt k).event ≠ some .reset

/-- The next step lets the access `a` take effect, in the state `s'` that has taken its input: `a` comes now from a context that may proceed, or it
waited and need wait no longer (20_memory R66). -/
def State.Serves (s : State) (a : HostAccess) (s' : State) : Prop :=
  ((s.inputAt 0).event = some (.access a) ∧ s.blocked a.ctx = false ∧ s' = s.latch) ∨
  ((s.inputAt 0).event = none ∧ s.ready = some a ∧ s' = s.latch.release a)

/-- The CMD write of the word `w` by the context `c` (10_state R37). -/
def cmdWrite (p : Params) (c : Nat) (w : Word) : HostAccess := ⟨c, true, p.hostBase, 32, w⟩

/-- The next step accepts the word `w` of the host context `c`, in the state `s'` that has taken its input and carries that write: the oldest held
write, or one presented while BUSY is 0 and none is held (10_state R35). -/
def State.Accepts (s : State) (c : Nat) (w : Word) (s' : State) : Prop :=
  s.busy = false ∧
  ((∃ ws, (s.inputAt 0).event = none ∧ s.ready = none ∧ s.cmdQueue = ⟨c, w⟩ :: ws ∧ s' = s.latch.takeWrite ⟨c, w⟩ ws) ∨
    (∃ r, s.Serves (cmdWrite s.cfg c w) r ∧ s.cmdQueue = [] ∧ s' = r.carry c))

/-- The next step is the engine's own. -/
def State.EngineMoves (s : State) : Prop :=
  (s.inputAt 0).event = none ∧ s.ready = none ∧ s.busy = true ∧ s.hung = false

/-- Where the engine goes on after a line action whose line is not stalled (60_exceptions R177): the action and its update done, `ms`
left, and the command complete if nothing is left. -/
def State.continued (s : State) (a : LineAction) (u : Update) (ms : List Micro) : State :=
  (((s.latch.load ms).emit a).update u).finish

/-- A command accepted in `s` from the host context `c` has run to its end `t`: what it did to the lines, that it is complete, and that it
left everything else that is not a datapath register (10_state R28, R32, R35, R38). -/
structure Completed (s t : State) (c : Nat) (i : Instr) (acts : List LineAction) (fin : Lines) (faults : List Fault) : Prop where
  trace : t.trace = s.trace ++ acts
  lines : t.lines = fin
  busy : t.busy = false
  hung : t.hung = false
  pending : t.pending = []
  cmdr : t.cmdr = encode i
  errIll : t.errIll = s.errIll
  errOor : t.errOor = s.errOor
  errTimeout : t.errTimeout = s.errTimeout
  cmdQueue : t.cmdQueue = s.cmdQueue
  carrier : t.carrier = none
  waiting : t.waiting = s.waiting
  faults : t.faults = faults
  hostLog : t.hostLog = s.hostLog ++ [.commandDone c]
  riseOrder : t.riseOrder = s.riseOrder
  cfg : t.cfg = s.cfg

/-- The fault set after a command that is accepted in a state its discipline may forbid (60_exceptions R173). -/
def faultsAfter (s : State) (forbidden : Bool) (m : Mnemonic) : List Fault :=
  if forbidden then addFault (.sessionDiscipline m) s.faults else s.faults

/-- A micro-step writes SESSION only where the spec has it written: 1 with an SCL_LOW, 0 with an SDA_REL (40_bus_transport R104, R106). -/
def Micro.shaped : Micro → Bool
  | .act a u =>
    match u.session with
    | some true => a == .sclLow
    | some false => a == .sdaRel
    | none => true
  | .scan _ => true
  | .nextChar => true
  | .abort => true

/-- The control invariant: an idle block has nothing pending and is not hung, a command in progress has something pending unless
hung, a CMD write carries exactly the command in progress, no host context has two CMD writes that are not complete, the configuration is
legal, the fault set has no repeats, and SESSION is written only where the spec says. -/
structure State.Inv (s : State) : Prop where
  idle : s.busy = false → s.pending = [] ∧ s.hung = false
  working : s.busy = true → s.hung = false → s.pending ≠ []
  carried : s.busy = s.carrier.isSome
  oneWrite : (s.carrier.toList ++ s.cmdQueue.map (·.ctx)).Nodup
  legal : s.cfg.legal = true
  faults : s.faults.Nodup
  shaped : ∀ m ∈ s.pending, m.shaped = true

/-- What the lines of a block that keeps the discipline may be between commands: all idle, or between the bytes of a session. -/
def Lines.Coherent (l : Lines) : Prop := l = Lines.idle ∨ l = Lines.betweenBytes

/-- The lines after one more action with its update. -/
def Lines.after (l : Lines) (a : LineAction) (u : Update) : Lines where
  sda := match a with
    | .sdaLow => .low
    | .sdaRel => .rel
    | _ => l.sda
  scl := match a with
    | .sclLow => .low
    | .sclRel => .rel
    | _ => l.scl
  session := u.session.getD l.session

/-- The lines after a list of micro-steps, of which only the line actions move them. -/
def Lines.run (l : Lines) : List Micro → Lines
  | [] => l
  | .act a u :: ms => (l.after a u).run ms
  | .scan _ :: ms => l.run ms
  | .nextChar :: ms => l.run ms
  | .abort :: ms => l.run ms

/-- The remaining micro-steps lead to coherent lines, whatever the string that is being sent, and a pre-scan goes on on coherent lines, and an
abort with SCL released (60_exceptions R178). -/
def LeadsHome : List Micro → Lines → Prop
  | [], l => l.Coherent
  | .act a u :: ms, l => LeadsHome ms (l.after a u)
  | .scan _ :: ms, l => l.Coherent ∧ ms = []
  | .nextChar :: ms, _ => ms = []
  | .abort :: _, l => l.scl = .rel

/-- The discipline invariant: as long as no model fault is recorded, what is pending leads to coherent lines (40_bus_transport R119). -/
def State.Disciplined (s : State) : Prop := s.faults = [] → LeadsHome s.pending s.lines

/-- A state with the peripheral's line drives of an input forgotten. -/
def Input.forgetLevels (i : Input) : Input :=
  { i with draws := { i.draws with periphSda := false, periphScl := false } }

/-- A state with the peripheral's line drives, now and to come, forgotten (40_bus_transport R108). -/
def State.forgetLevels (s : State) : State :=
  { s with inp := s.inp.forgetLevels, env := s.env.map Input.forgetLevels }

/-- A state with the datapath registers that no rule reads forgotten (10_state R26, R40). -/
def State.forgetDatapath (s : State) : State :=
  { s with cmdr := 0, sr := 0, bitcnt := 0, idx := 0, col := 0 }

/-- A state with SPTR, another datapath register, forgotten; between commands no rule reads it (10_state R25, R40). -/
def State.forgetSptr (s : State) : State := { s with sptr := 0 }

/-- A state with the error bits forgotten, and what the host has been answered, which may tell them (60_exceptions R182). -/
def State.forgetErrors (s : State) : State :=
  { s with errIll := false, errOor := false, errTimeout := false, hostLog := [] }

/-- The words of a raw session: OPEN, a WRITE for each byte, CLOSE (30_encoding R91, `SEND`). -/
def sendWords (addr : Byte) (bs : List Byte) : List Word := (sendCommands addr bs).map encode

/-- The value of STATUS after reset (10_state R36). -/
def resetStatus (p : Params) : Word :=
  0x000000C0#32 ||| (if p.stallPolicy = .timeout then 1#32 else 0#32) <<< 9 ||| (if p.hardenGlyph then 1#32 else 0#32) <<< 8

/-- The accesses with which the host context `c` writes the words `ws` one after another. -/
def cmdWrites (p : Params) (c : Nat) (ws : List Word) : List HostAccess := ws.map (cmdWrite p c)

/-- An answer that completes a CMD write. -/
def HostAnswer.isCompletion : HostAnswer → Bool
  | .data _ _ => false
  | .statusWritten _ => false
  | .commandDone _ => true

/-- A good final state: idle, and no model fault recorded (60_exceptions R172). -/
def State.Good (s : State) : Prop := s.busy = false ∧ s.faults = []

end Sys2Proof.Machine
end

