-- ==== Sys2Proof/Certificates/Slice0/Obligations.lean ====
section
/-!
DEFINITION. The statements for the provers. Each names the rules of spec/ it formalises; `OBLIGATIONS.json` lists them.
-/

open Sys2Proof Sys2Proof.Machine

/-! ## Encoding -/

/-- 30_encoding R92: the worked encodings, read both ways, and the two illegal words. -/
def Obligations.WorkedEncodings : Prop :=
  (∀ x ∈ ([(.openBus 0x78, 0x10780000), (.writeByte 0xA5, 0x20A50000), (.closeBus, 0x30000000), (.init, 0x40000000),
      (.setcur 200 1, 0x50C80001), (.setcur 127 3, 0x507F0003), (.putc 0x41, 0x60410000), (.puts 0x0010, 0x70000010),
      (.shift 0, 0x80000000), (.clear, 0x90000000)] : List (Instr × Word)), encode x.1 = x.2 ∧ decode x.2 = .ok x.1) ∧
  decode 0xA0000000 = .error (.reservedOpcode 0xA) ∧ decode 0x31000000 = .error (.reservedBit 0x3)

/-- 30_encoding R82, R84, R88: decoding the word of any instruction gives it back, with every operand at every value. -/
def Obligations.DecodeInvertsEncode : Prop :=
  ∀ i : Instr, decode (encode i) = .ok i

/-- 30_encoding R83, R84, R89: a word that decodes is the word of the instruction it decodes to. -/
def Obligations.EncodeInvertsDecode : Prop :=
  ∀ (w : Word) (i : Instr), decode w = .ok i → encode i = w

/-- 30_encoding R83: the rows of the opcode map do not overlap. -/
def Obligations.OpcodeRowsDisjoint : Prop :=
  ∀ r₁ ∈ opcodeMap, ∀ r₂ ∈ opcodeMap, ∀ w : Word, r₁.hits w = true → r₂.hits w = true → r₁ = r₂

/-- 30_encoding R89: the legal words, listed once each, are 132099. -/
def Obligations.LegalWordsCounted : Prop :=
  ∃ ws : List Word, ws.Nodup ∧ ws.length = 132099 ∧ ∀ w, w ∈ ws ↔ ∃ i, decode w = .ok i

/-- 30_encoding R85: a word with a reserved opcode is illegal, and a stray write of zero executes nothing. That the step which accepts it also raises,
so that BUSY is 0 and PENDING empty after it, is the model's reading (log entry 5). -/
def Obligations.ReservedOpcodeIsIllegal : Prop :=
  (∀ w : Word, opField w = 0x0 ∨ 0xA ≤ opField w → ∃ e, decode w = .error e) ∧
  (∀ (s s' : State) (c : Nat), s.Accepts c 0x00000000 s' →
    ∃ t, step s = .next t ∧ t.trace = s.trace ∧ t.lines = s.lines ∧ t.pending = [] ∧ t.busy = false)

/-- 30_encoding R86: a word with a legal opcode and a reserved-zero bit of its row set is illegal. -/
def Obligations.ReservedZeroBitIsIllegal : Prop :=
  ∀ r ∈ opcodeMap, ∀ w : Word, opField w = opField r.pattern →
    (∃ k < 28, r.mask.getLsbD k = true ∧ r.pattern.getLsbD k = false ∧ w.getLsbD k = true) →
    ∃ e, decode w = .error e

/-! ## Acceptance -/

/-- 10_state R35, 30_encoding R88: a step that accepts a word, a held one or one presented to an idle block, is `exec` of the decoded command at
the state that has taken its input and carries the write. That acceptance, decoding and expansion are one step is the model's reading (log
entries 5, 6), that held writes are accepted oldest first its choice (log entry 4). -/
def Obligations.StepRunsDecodedInstruction : Prop :=
  ∀ (s s' : State) (c : Nat) (w : Word) (i : Instr), s.Accepts c w s' → decode w = .ok i → step s = exec i s'

/-- 60_exceptions R174, 30_encoding R88: a word that matches no row has a reserved opcode or a reserved-zero bit set; it sets ERR_ILL and CMDR, its
CMD write completes at once, and nothing else of the block changes, SESSION and the lines among it. That acceptance and raise are one step is
the model's reading (log entry 5), that the completion stands in `hostLog` its record of it (log entry 16). -/
def Obligations.IllegalWordRaises : Prop :=
  ∀ (s s' : State) (c : Nat) (w : Word), s.Accepts c w s' → s.pending = [] →
    (∀ r ∈ opcodeMap, w &&& r.mask ≠ r.pattern) →
    (opField w = 0x0 ∨ 0xA ≤ opField w ∨ ∃ r ∈ opcodeMap, opField w = opField r.pattern ∧
      ∃ k < 28, r.mask.getLsbD k = true ∧ r.pattern.getLsbD k = false ∧ w.getLsbD k = true) ∧
    step s = .next { s' with cmdr := w, errIll := true, carrier := none, hostLog := s'.hostLog ++ [.commandDone c] }

/-- 40_bus_transport R104-R106, R110, R112, R114; 60_exceptions R173: OPEN, WRITE and CLOSE are accepted in every state. CMDR and BUSY are
written, PENDING becomes the command's line actions in order, the discipline fault is recorded where the session state forbids the command,
and everything else is unchanged. -/
def Obligations.TransportCommandsExpand : Prop :=
  (∀ (s : State) (addr : Byte), ∃ ms,
    exec (.openBus addr) s = .next { s with
      cmdr := encode (.openBus addr), busy := true, pending := ms, faults := faultsAfter s s.session .openBus } ∧
    ms.map Micro.action = (startActions ++ byteActions addr).map some) ∧
  (∀ (s : State) (b : Byte), ∃ ms,
    exec (.writeByte b) s = .next { s with
      cmdr := encode (.writeByte b), busy := true, pending := ms, faults := faultsAfter s (!s.session) .writeByte } ∧
    ms.map Micro.action = (byteActions b).map some) ∧
  (∀ s : State, ∃ ms,
    exec .closeBus s = .next { s with
      cmdr := encode .closeBus, busy := true, pending := ms, faults := faultsAfter s (!s.session) .closeBus } ∧
    ms.map Micro.action = stopActions.map some)

/-- 41_display_control R126, R131; 43_display_maintenance R160, R164; 60_exceptions R173: INIT, SETCUR, SHIFT and CLEAR are accepted in
every state, with their sessions as PENDING and everything else unchanged. -/
def Obligations.SessionCommandsExpand : Prop :=
  (∀ s : State, ∃ ms,
    exec .init s = .next { s with
      cmdr := encode .init, busy := true, pending := ms, faults := faultsAfter s s.session .init } ∧
    ms.map Micro.action = (sessionActions s.cfg.addrCmd s.cfg.initSeq).map some) ∧
  (∀ (s : State) (c p : Byte), ∃ ms,
    exec (.setcur c p) s = .next { s with
      cmdr := encode (.setcur c p), busy := true, pending := ms, faults := faultsAfter s s.session .setcur } ∧
    ms.map Micro.action = (sessionActions s.cfg.addrCmd (setcurPayload s.cfg c p)).map some) ∧
  (∀ (s : State) (o : Byte), ∃ ms,
    exec (.shift o) s = .next { s with
      cmdr := encode (.shift o), busy := true, pending := ms, faults := faultsAfter s s.session .shift } ∧
    ms.map Micro.action = (sessionActions s.cfg.addrCmd [s.cfg.shiftCmd, o]).map some) ∧
  (∀ s : State, ∃ ms,
    exec .clear s = .next { s with
      cmdr := encode .clear, busy := true, pending := ms, faults := faultsAfter s s.session .clear } ∧
    ms.map Micro.action = (clearActions s.cfg).map some)

/-- 42_text_output R142-R145; 10_state R28; 20_memory R60; 60_exceptions R173, R175, R180: PUTC is accepted in every state. An in-range code
sends the spacing byte and its five table bytes; an out-of-range code sends the spacing byte and the five draws, whatever they are, or, with
HARDEN_GLYPH, raises OutOfRangeCharacter with no line action and no discipline fault. Everything else is unchanged. That the draws are those of
the step that accepts the command, which R60 permits, is the model's reading (log entry 26), and so is the raise in that same step (log entry 5). -/
def Obligations.PutcExpands : Prop :=
  ∀ (s : State) (c : Byte), s.cfg.legal = true →
    (inRange s.cfg c = true → ∃ ms,
      exec (.putc c) s = .next { s with
        cmdr := encode (.putc c), busy := true, pending := ms, faults := faultsAfter s s.session .putc } ∧
      ms.map Micro.action = (sessionActions s.cfg.addrData (0x00 :: tableGlyph s.cfg c)).map some) ∧
    (inRange s.cfg c = false → s.cfg.hardenGlyph = false → ∃ ms,
      exec (.putc c) s = .next { s with
        cmdr := encode (.putc c), busy := true, pending := ms, faults := faultsAfter s s.session .putc } ∧
      ms.map Micro.action = (sessionActions s.cfg.addrData (0x00 :: s.inp.draws.glyph.toList)).map some) ∧
    (inRange s.cfg c = false → s.cfg.hardenGlyph = true →
      exec (.putc c) s = .next { s with
        cmdr := encode (.putc c), busy := false, pending := [], errOor := true, carrier := none
        hostLog := s.hostLog ++ s.completion })

/-- 42_text_output R150, R151: PUTS is accepted in every state. Without HARDEN_GLYPH it opens its data session and then reads its string
from SPTR; with it the pre-scan comes first and no discipline fault is recorded yet. Everything else is unchanged. The lazy expansion is the
model's (log entry 7), the time at which a hardened PUTS records its fault its reading (log entry 11). -/
def Obligations.PutsExpands : Prop :=
  ∀ (s : State) (a : StrAddr),
    (s.cfg.hardenGlyph = false → ∃ ms,
      exec (.puts a) s = .next { s with
        cmdr := encode (.puts a), busy := true, sptr := a, pending := ms ++ [.nextChar]
        faults := faultsAfter s s.session .puts } ∧
      ms.map Micro.action = (startActions ++ byteActions s.cfg.addrData).map some) ∧
    (s.cfg.hardenGlyph = true →
      exec (.puts a) s = .next { s with cmdr := encode (.puts a), busy := true, sptr := a, pending := [.scan a] })

/-! ## Commands run to their end -/

/-- 40_bus_transport R104, R105, R110: with a responsive peripheral OPEN performs its start condition and its byte and leaves the session
open, SDA released, SCL low; one step accepts it and each action takes one. Step counts here and below are the model's (log entry 6): one to
accept, one for each line action. -/
def Obligations.OpenRunsToItsEnd : Prop :=
  ∀ (s s' : State) (c : Nat) (addr : Byte), s.Accepts c (encode (.openBus addr)) s' → s'.hung = false →
    s'.Calm (29 + popcount addr) →
    ∃ t, Host.Core.run Sys2Proof.core (1 + (29 + popcount addr)) s = .next t ∧
      Completed s' t c (.openBus addr) (startActions ++ byteActions addr) Lines.betweenBytes
        (faultsAfter s' s'.session .openBus)

/-- 40_bus_transport R105, R112: WRITE performs its byte and leaves SESSION as it was. -/
def Obligations.WriteRunsToItsEnd : Prop :=
  ∀ (s s' : State) (c : Nat) (b : Byte), s.Accepts c (encode (.writeByte b)) s' → s'.hung = false →
    s'.Calm (27 + popcount b) →
    ∃ t, Host.Core.run Sys2Proof.core (1 + (27 + popcount b)) s = .next t ∧
      Completed s' t c (.writeByte b) (byteActions b) ⟨.rel, .low, s'.session⟩ (faultsAfter s' (!s'.session) .writeByte)

/-- 40_bus_transport R106, R114: CLOSE performs the stop sequence, SCL before SDA, and leaves both lines released and no session. -/
def Obligations.CloseRunsToItsEnd : Prop :=
  ∀ (s s' : State) (c : Nat), s.Accepts c (encode .closeBus) s' → s'.hung = false → s'.Calm 3 →
    ∃ t, Host.Core.run Sys2Proof.core (1 + 3) s = .next t ∧
      Completed s' t c .closeBus [.sdaLow, .sclRel, .sdaRel] Lines.idle (faultsAfter s' (!s'.session) .closeBus)

/-- 41_display_control R125, R126: INIT sends INIT_SEQ in order in one command-mode session. -/
def Obligations.InitRunsToItsEnd : Prop :=
  ∀ (s s' : State) (c : Nat), s.Accepts c (encode .init) s' → s'.hung = false →
    s'.Calm (sessionActionCount s'.cfg.addrCmd s'.cfg.initSeq) →
    ∃ t, Host.Core.run Sys2Proof.core (1 + sessionActionCount s'.cfg.addrCmd s'.cfg.initSeq) s = .next t ∧
      Completed s' t c .init (sessionActions s'.cfg.addrCmd s'.cfg.initSeq) Lines.idle (faultsAfter s' s'.session .init)

/-- 41_display_control R129-R132: SETCUR sends exactly three bytes, the two nibbles of the column unreduced and the masked page. -/
def Obligations.SetcurRunsToItsEnd : Prop :=
  ∀ (s s' : State) (x : Nat) (c p : Byte), s.Accepts x (encode (.setcur c p)) s' → s'.hung = false →
    s'.Calm (sessionActionCount s'.cfg.addrCmd (setcurPayload s'.cfg c p)) →
    ∃ t, Host.Core.run Sys2Proof.core (1 + sessionActionCount s'.cfg.addrCmd (setcurPayload s'.cfg c p)) s = .next t ∧
      Completed s' t x (.setcur c p) (sessionActions s'.cfg.addrCmd (setcurPayload s'.cfg c p)) Lines.idle
        (faultsAfter s' s'.session .setcur)

/-- 42_text_output R143-R146: PUTC sends the spacing byte and its glyph in one data session of its own: the table's bytes for an in-range
code, the draws of the step that accepts it for an out-of-range one without HARDEN_GLYPH. That the draws are those of that step, which
20_memory R60 permits, is the model's reading (log entry 26). -/
def Obligations.PutcRunsToItsEnd : Prop :=
  ∀ (s s' : State) (x : Nat) (c : Byte) (bs : List Byte), s.Accepts x (encode (.putc c)) s' → s'.hung = false →
    s'.cfg.legal = true →
    ((inRange s'.cfg c = true ∧ bs = 0x00 :: tableGlyph s'.cfg c) ∨
      (inRange s'.cfg c = false ∧ s'.cfg.hardenGlyph = false ∧ bs = 0x00 :: s'.inp.draws.glyph.toList)) →
    s'.Calm (sessionActionCount s'.cfg.addrData bs) →
    ∃ t, Host.Core.run Sys2Proof.core (1 + sessionActionCount s'.cfg.addrData bs) s = .next t ∧
      Completed s' t x (.putc c) (sessionActions s'.cfg.addrData bs) Lines.idle (faultsAfter s' s'.session .putc)

/-- 43_display_maintenance R160, R161: SHIFT sends the shift command byte and the offset, unmasked. -/
def Obligations.ShiftRunsToItsEnd : Prop :=
  ∀ (s s' : State) (c : Nat) (o : Byte), s.Accepts c (encode (.shift o)) s' → s'.hung = false →
    s'.Calm (sessionActionCount s'.cfg.addrCmd [s'.cfg.shiftCmd, o]) →
    ∃ t, Host.Core.run Sys2Proof.core (1 + sessionActionCount s'.cfg.addrCmd [s'.cfg.shiftCmd, o]) s = .next t ∧
      Completed s' t c (.shift o) (sessionActions s'.cfg.addrCmd [s'.cfg.shiftCmd, o]) Lines.idle
        (faultsAfter s' s'.session .shift)

/-- 43_display_maintenance R164, R165: CLEAR sends its three sessions: the cursor to (0,0), `128 * PAGE_COUNT` zero bytes, shift 0. -/
def Obligations.ClearRunsToItsEnd : Prop :=
  ∀ (s s' : State) (c : Nat), s.Accepts c (encode .clear) s' → s'.hung = false →
    s'.Calm (sessionActionCount s'.cfg.addrCmd [0x00, 0x10, s'.cfg.pageMarker] +
      (5 + byteActionCount s'.cfg.addrData + 27 * (128 * s'.cfg.pageCount)) +
      sessionActionCount s'.cfg.addrCmd [s'.cfg.shiftCmd, 0x00]) →
    ∃ t, Host.Core.run Sys2Proof.core (1 + (sessionActionCount s'.cfg.addrCmd [0x00, 0x10, s'.cfg.pageMarker] +
        (5 + byteActionCount s'.cfg.addrData + 27 * (128 * s'.cfg.pageCount)) +
        sessionActionCount s'.cfg.addrCmd [s'.cfg.shiftCmd, 0x00])) s = .next t ∧
      Completed s' t c .clear (clearActions s'.cfg) Lines.idle (faultsAfter s' s'.session .clear)

/-- 42_text_output R149-R151, R154, R155: PUTS of an in-range string of `n` characters sends exactly one data session, whose `6 * n` payload
bytes are those of PUTC for each character in order; with HARDEN_GLYPH the pre-scan takes one step a character and one for the sentinel and
changes nothing else. The internal steps are the model's (log entry 7). -/
def Obligations.PutsRunsToItsEnd : Prop :=
  ∀ (s s' : State) (x : Nat) (a : StrAddr) (n : Nat), s.Accepts x (encode (.puts a)) s' → s'.hung = false →
    s'.cfg.legal = true → isString s'.cfg a n = true → (∀ c ∈ strChars s'.cfg a n, inRange s'.cfg c = true) →
    ∀ payload, payload = (strChars s'.cfg a n).flatMap (fun c => 0x00 :: tableGlyph s'.cfg c) →
    ∀ steps, steps = (if s'.cfg.hardenGlyph then n + 1 else 0) + (n + 1) + sessionActionCount s'.cfg.addrData payload →
    s'.Calm steps →
    payload.length = 6 * n ∧
    ∃ t, Host.Core.run Sys2Proof.core (1 + steps) s = .next t ∧
      Completed s' t x (.puts a) (sessionActions s'.cfg.addrData payload) Lines.idle (faultsAfter s' s'.session .puts)

/-- 42_text_output R143, R149, R154, R155: PUTS of any string of `n` characters, or with HARDEN_GLYPH of any in-range one, sends exactly one
data session of `6 * n` payload bytes: for each character in order the spacing byte and five glyph bytes, the table's where the character is
in range. With HARDEN_GLYPH a string with a character out of range sends none (`HardenedPutsRejectsString`). The number of steps is the model's and
left open here. -/
def Obligations.PutsSendsOneSessionForAnyString : Prop :=
  ∀ (s s' : State) (x : Nat) (a : StrAddr) (n : Nat), s.Accepts x (encode (.puts a)) s' → s'.hung = false →
    s'.cfg.legal = true → isString s'.cfg a n = true →
    (s'.cfg.hardenGlyph = true → ∀ c ∈ strChars s'.cfg a n, inRange s'.cfg c = true) →
    s'.Calm ((n + 1) + (n + 1) + (40 + 210 * n)) →
    ∃ (gs : List (Vector Byte 5)) (steps : Nat) (t : State), gs.length = n ∧
      (∀ y ∈ (strChars s'.cfg a n).zip gs, inRange s'.cfg y.1 = true → y.2.toList = tableGlyph s'.cfg y.1) ∧
      (gs.flatMap fun g => 0x00 :: g.toList).length = 6 * n ∧
      Host.Core.run Sys2Proof.core steps s = .next t ∧
      Completed s' t x (.puts a) (sessionActions s'.cfg.addrData (gs.flatMap fun g => 0x00 :: g.toList)) Lines.idle
        (faultsAfter s' s'.session .puts)

/-- 42_text_output R150, R151; 60_exceptions R175, R180: with HARDEN_GLYPH a PUTS whose string has an out-of-range character after `n` in-range
ones, in a string ROM that has a sentinel, performs no line action, sets ERR_OOR, completes, and records no discipline fault. In a ROM without a
sentinel the pre-scan goes on forever instead (`SentinelFreeScanNeverEnds`, log entry 30). The number of steps is the model's (log entry 7). -/
def Obligations.HardenedPutsRejectsString : Prop :=
  ∀ (s s' : State) (x : Nat) (a : StrAddr) (n : Nat), s.Accepts x (encode (.puts a)) s' → s'.hung = false →
    s'.cfg.hardenGlyph = true →
    (∀ c ∈ strChars s'.cfg a n, inRange s'.cfg c = true) →
    strRead s'.cfg (a + BitVec.ofNat 16 n) ≠ Config.sentinel → inRange s'.cfg (strRead s'.cfg (a + BitVec.ofNat 16 n)) = false →
    (∃ b, strRead s'.cfg b = Config.sentinel) →
    s'.Calm (n + 1) →
    ∃ t, Host.Core.run Sys2Proof.core (1 + (n + 1)) s = .next t ∧ t.errOor = true ∧ t.busy = false ∧ t.pending = [] ∧
      t.trace = s'.trace ∧ t.lines = s'.lines ∧ t.faults = s'.faults ∧ t.errIll = s'.errIll ∧
      t.errTimeout = s'.errTimeout ∧ t.carrier = none ∧ t.cmdQueue = s'.cmdQueue ∧ t.hostLog = s'.hostLog ++ [.commandDone x]

/-- 20_memory R61, 42_text_output R152, 70_reset R218: a PUTS whose string ROM holds no sentinel never completes until reset. (1) Whatever accesses
come, and whatever the peripheral does under NONE, or without a stall in the stretch under TIMEOUT, BUSY stays 1, the CMD write stays incomplete,
no other completes, and with HARDEN_GLYPH nothing is emitted and no error is raised, characters out of range or not (log entry 30). (2) Without
HARDEN_GLYPH and with an answering peripheral it goes on emitting: however many characters `m`, it sends the spacing byte and five more for each,
and is still busy. -/
def Obligations.PutsWithoutSentinelNeverEnds : Prop :=
  ∀ (s s' : State) (x : Nat) (a : StrAddr), s.Accepts x (encode (.puts a)) s' → (∀ b, strRead s'.cfg b ≠ Config.sentinel) →
    (∀ n, s'.NoReset n → (s'.cfg.stallPolicy = .none ∨ ∀ k < n, (s'.inputAt k).draws.stall = false) →
      ∃ t, Host.Core.run Sys2Proof.core (1 + n) s = .next t ∧ t.busy = true ∧ t.carrier = some x ∧
        t.hostLog.countP HostAnswer.isCompletion = s'.hostLog.countP HostAnswer.isCompletion ∧
        (t.errOor = true → s'.errOor = true) ∧
        (s'.cfg.hardenGlyph = true → t.trace = s'.trace ∧ t.lines = s'.lines)) ∧
    (∀ m, s'.cfg.hardenGlyph = false → s'.hung = false → s'.Calm (37 + 211 * m) →
      ∃ (gs : List (Vector Byte 5)) (steps : Nat) (t : State), gs.length = m ∧
        Host.Core.run Sys2Proof.core steps s = .next t ∧ t.busy = true ∧ t.carrier = some x ∧
        t.trace = s'.trace ++ startActions ++ byteActions s'.cfg.addrData ++
          (gs.flatMap fun g => 0x00 :: g.toList).flatMap byteActions)

/-- 30_encoding R91, 20_memory R66, 70_reset R210: a raw session which one host context writes with OPEN, a WRITE for each byte and CLOSE, in an
idle block without a session, performs the line actions of one session, action for action, and records no fault; each write waits for the one
before it to complete. The number of steps is the model's (log entry 6). -/
def Obligations.RawSessionRunsAsOneSession : Prop :=
  ∀ (s : State) (x : Nat) (addr : Byte) (bs : List Byte) (rest : List HostAccess),
    s.busy = false → s.hung = false → s.session = false → s.carrier = none → s.cmdQueue = [] →
    s.waiting = cmdWrites s.cfg x (sendWords addr bs) ++ rest → (∀ a ∈ rest, a.ctx = x) →
    s.Quiet (bs.length + 2 + sessionActionCount addr bs) →
    ∃ t, Host.Core.run Sys2Proof.core (bs.length + 2 + sessionActionCount addr bs) s = .next t ∧
      t.trace = s.trace ++ sessionActions addr bs ∧ t.lines = Lines.idle ∧ t.busy = false ∧ t.waiting = rest ∧ t.cmdQueue = [] ∧
      t.faults = s.faults ∧ t.hostLog = s.hostLog ++ List.replicate (bs.length + 2) (.commandDone x)

/-! ## The engine -/

/-- 40_bus_transport R101: a line action is one engine step; it sets one drive state, even when the line is already in it, updates the
matching STATUS bit and appends itself to the trace, whatever the peripheral does. That a stalled release which hangs the engine is performed
too is the model's reading (log entry 9). -/
def Obligations.LineActionIsOneStep : Prop :=
  ∀ (s : State) (a : LineAction) (u : Update) (ms : List Micro), s.EngineMoves → s.pending = .act a u :: ms →
    ∃ t, step s = .next t ∧ t.trace = s.trace ++ [a] ∧
      t.status.getLsbD 6 = (t.sdaDrv == .rel) ∧ t.status.getLsbD 7 = (t.sclDrv == .rel) ∧
      (a = .sdaLow → t.sdaDrv = .low ∧ t.sclDrv = s.sclDrv) ∧
      (a = .sdaRel → t.sdaDrv = .rel ∧ t.sclDrv = s.sclDrv) ∧
      (a = .sclLow → t.sclDrv = .low ∧ t.sdaDrv = s.sdaDrv) ∧
      (a = .sclRel → t.sclDrv = .rel ∧ t.sdaDrv = s.sdaDrv)

/-- 60_exceptions R177: what a stall does. Without one, or at an action that is no release, the engine goes on. Under NONE a stalled release
goes on or hangs, as the environment chooses, and a hang keeps BUSY and completes nothing. Under TIMEOUT a stalled SCL release leads to the
abort, and a stalled SDA release is not sensed. That the stalled release is performed before the hang is the model's reading (log entry 9),
that the abort is the next step too (log entry 10). -/
def Obligations.StallHandling : Prop :=
  ∀ (s : State) (a : LineAction) (u : Update) (ms : List Micro), s.EngineMoves → s.pending = .act a u :: ms →
    ((s.inputAt 0).draws.stall = false ∨ a = .sdaLow ∨ a = .sclLow → step s = .next (s.continued a u ms)) ∧
    ((s.inputAt 0).draws.stall = true → a = .sdaRel ∨ a = .sclRel → s.cfg.stallPolicy = .none →
      ((s.inputAt 0).draws.hang = false → step s = .next (s.continued a u ms)) ∧
      ((s.inputAt 0).draws.hang = true → ∃ t, step s = .next t ∧ t.hung = true ∧ t.busy = true ∧
        t.trace = s.trace ++ [a] ∧ t.pending = ms ∧ t.hostLog = s.hostLog)) ∧
    ((s.inputAt 0).draws.stall = true → s.cfg.stallPolicy = .timeout →
      (a = .sdaRel → step s = .next (s.continued a u ms)) ∧
      (a = .sclRel → ∃ t, step s = .next t ∧ t.pending = [.abort] ∧ t.busy = true ∧ t.hung = false ∧
        t.trace = s.trace ++ [.sclRel]))

/-- 60_exceptions R177, 70_reset R216: a hung engine takes no further step until reset, whatever host accesses come: BUSY stays 1, no line
action is performed, and no CMD write completes. -/
def Obligations.HungUntilReset : Prop :=
  ∀ (s : State) (n : Nat), s.hung = true → s.busy = true → s.NoReset n →
    ∃ t, Host.Core.run Sys2Proof.core n s = .next t ∧ t.hung = true ∧ t.busy = true ∧ t.trace = s.trace ∧
      t.lines = s.lines ∧ t.pending = s.pending ∧ t.carrier = s.carrier ∧
      t.hostLog.countP HostAnswer.isCompletion = s.hostLog.countP HostAnswer.isCompletion

/-- 60_exceptions R178: under TIMEOUT a stalled SCL release is followed by the abort: SDA is released, SESSION is cleared, ERR_TIMEOUT is
set, the rest of the command is dropped and the CMD write that carries it completes. That the abort is a step of its own is the model's reading
(log entry 10). -/
def Obligations.TimeoutAborts : Prop :=
  ∀ (s : State) (u : Update) (ms : List Micro), s.EngineMoves → s.pending = .act .sclRel u :: ms →
    s.cfg.stallPolicy = .timeout → (s.inputAt 0).draws.stall = true → (s.inputAt 1).event = none →
    ∃ t, Host.Core.run Sys2Proof.core 2 s = .next t ∧ t.trace = s.trace ++ [.sclRel, .sdaRel] ∧
      t.lines = Lines.idle ∧ t.errTimeout = true ∧ t.errIll = s.errIll ∧ t.errOor = s.errOor ∧
      t.pending = [] ∧ t.busy = false ∧ t.hung = false ∧ t.carrier = none ∧ t.hostLog = s.hostLog ++ s.completion ∧
      t.faults = s.faults ∧ t.cmdQueue = s.cmdQueue ∧ t.waiting = s.waiting

/-- 42_text_output R150, R153; 20_memory R58, R61: one turn of the loop of PUTS at a character that is not the sentinel: SPTR goes on modulo
65536, and the six bytes of the character are put before what is pending, the table's five for an in-range character, this step's draws for
an out-of-range one. That reading a character is an internal step is the model's (log entry 7). -/
def Obligations.PutsSendsOneCharacter : Prop :=
  ∀ (s : State) (ms : List Micro) (bs : List Byte), s.EngineMoves → s.pending = .nextChar :: ms → s.cfg.legal = true →
    strRead s.cfg s.sptr ≠ Config.sentinel →
    ((inRange s.cfg (strRead s.cfg s.sptr) = true ∧ bs = tableGlyph s.cfg (strRead s.cfg s.sptr)) ∨
      (inRange s.cfg (strRead s.cfg s.sptr) = false ∧ bs = (s.inputAt 0).draws.glyph.toList)) →
    ∃ xs, step s = .next { s with
        inp := s.inputAt 0, env := s.env.tail, tick := s.tick + 1
        sptr := BitVec.ofNat 16 ((s.sptr.toNat + 1) % 65536), pending := xs ++ .nextChar :: ms } ∧
      xs.map Micro.action = ((0x00 :: bs).flatMap byteActions).map some

/-- 10_state R33, R38; 60_exceptions R182: an error bit, once set, is cleared by nothing but reset and a STATUS write. -/
def Obligations.ErrorBitsAreSticky : Prop :=
  ∀ s t : State, step s = .next t → (s.inputAt 0).event ≠ some .reset →
    (∀ a s', s.Serves a s' → ¬(a.write = true ∧ a.width = 32 ∧ a.addr = s.cfg.hostBase + 4)) →
    (s.errIll = true → t.errIll = true) ∧ (s.errOor = true → t.errOor = true) ∧
    (s.errTimeout = true → t.errTimeout = true)

/-! ## The host's side -/

/-- 10_state R33, R36; 40_bus_transport R102: the fields of STATUS, its reserved bits, and its value after reset; its drive bits are not the wire
levels: a wire is high exactly where neither the block nor the peripheral pulls it low. -/
def Obligations.StatusFields : Prop :=
  (∀ s : State,
    s.status.getLsbD 0 = s.busy ∧ s.status.getLsbD 1 = s.session ∧ s.status.getLsbD 3 = s.errIll ∧
    s.status.getLsbD 4 = s.errOor ∧ s.status.getLsbD 5 = s.errTimeout ∧
    s.status.getLsbD 6 = (s.sdaDrv == .rel) ∧ s.status.getLsbD 7 = (s.sclDrv == .rel) ∧
    s.status.getLsbD 8 = s.cfg.hardenGlyph ∧ s.status.getLsbD 9 = (s.cfg.stallPolicy == .timeout) ∧
    ∀ k, k = 2 ∨ 10 ≤ k → s.status.getLsbD k = false) ∧
  State.reset.status = resetStatus State.reset.cfg ∧
  (∀ s : State,
    (s.sdaWire = true ↔ s.sdaDrv = .rel ∧ s.inp.draws.periphSda = false) ∧
    (s.sclWire = true ↔ s.sclDrv = .rel ∧ s.inp.draws.periphScl = false))

/-- 10_state R34: a STATUS read returns the fields and has no side effect; a STATUS write clears exactly the error bits written 1; both are
accepted whatever BUSY is; an error raised after the write sets its bit again. That the answer stands in `hostLog` is the model's record of
it (log entry 16); when an access of a host context takes effect is R66's rule (log entries 4, 28). -/
def Obligations.StatusAccess : Prop :=
  ∀ (s s' : State) (a : HostAccess), s.Serves a s' → a.width = 32 → a.addr = s.cfg.hostBase + 4 →
    (a.write = false → step s = .next { s' with hostLog := s'.hostLog ++ [.data a.ctx s.status] }) ∧
    (a.write = true → ∃ t, step s = .next t ∧
      t = { s' with
        hostLog := s'.hostLog ++ [.statusWritten a.ctx]
        errIll := s'.errIll && !a.data.getLsbD 3, errOor := s'.errOor && !a.data.getLsbD 4
        errTimeout := s'.errTimeout && !a.data.getLsbD 5 } ∧
      (t.raise .illegalCommand).errIll = true ∧ (t.raise .outOfRangeCharacter).errOor = true ∧
      (t.raise .busTimeout).errTimeout = true)

/-- 10_state R35: a CMD read returns 0 and changes nothing else; a CMD write while BUSY is 0 is accepted in that step, its word in CMDR and BUSY 1
unless the check raises at once; a CMD write while BUSY is 1 is held. That the held writes form a queue, and that a write also waits behind those
already held, is the model's (log entry 4); acceptance and raise in one step is its reading (log entry 5), the answer in `hostLog` its record (log
entry 16). -/
def Obligations.CmdAccess : Prop :=
  ∀ (s s' : State) (a : HostAccess), s.Serves a s' → a.width = 32 → a.addr = s.cfg.hostBase →
    (a.write = false → step s = .next { s' with hostLog := s'.hostLog ++ [.data a.ctx 0x00000000] }) ∧
    (a.write = true → s.busy = false → s.cmdQueue = [] →
      step s = acceptWord a.data { s' with carrier := some a.ctx } ∧
      ∃ t, step s = .next t ∧ t.cmdr = a.data ∧ t.cmdQueue = [] ∧
        ((t.busy = true ∧ t.carrier = some a.ctx) ∨ (t.busy = false ∧ t.carrier = none ∧ (t.errIll = true ∨ t.errOor = true)))) ∧
    (a.write = true → s.busy = true ∨ s.cmdQueue ≠ [] →
      step s = .next { s' with cmdQueue := s'.cmdQueue ++ [⟨a.ctx, a.data⟩] })

/-- 10_state R32, R35; 20_memory R66: while BUSY is 1 and RST does not come no CMD write is accepted: CMDR and the held writes stay, and a write
that comes is held behind them; an accepted write is the only way BUSY rises. That held writes are accepted oldest first is the model's (log entry
4). -/
def Obligations.BusyBlockHoldsWrites : Prop :=
  (∀ s t : State, (s.inputAt 0).event ≠ some .reset → s.busy = true → step s = .next t →
    t.cmdr = s.cmdr ∧ ∃ more, t.cmdQueue = s.cmdQueue ++ more) ∧
  (∀ s t : State, step s = .next t → s.busy = false → t.busy = true →
    ∃ c w s', s.Accepts c w s' ∧ t.cmdr = w ∧ t.carrier = some c ∧ t.cmdQueue = s'.cmdQueue)

/-- 10_state R37, 20_memory R64, 60_exceptions R172: a host access at any other address, or not 32 bits wide, records UnmappedAccess and has
no effect. That such a load gets no answer is the model's choice (log entry 12). -/
def Obligations.UnmappedAccessHasNoEffect : Prop :=
  ∀ (s s' : State) (a : HostAccess), s.Serves a s' →
    a.width ≠ 32 ∨ (a.addr ≠ s.cfg.hostBase ∧ a.addr ≠ s.cfg.hostBase + 4) →
    step s = .next { s' with
      faults := addFault (.unmappedAccess ((a.addr : Int) - s.cfg.hostBase) a.width) s.faults }

/-- 70_reset R201-R203: reset in any state, a hung or busy one too, leaves the reset values, performs no line action, keeps the
configuration, completes the CMD write of an abandoned command and every write held on it, with no further effect, and records ResetInSession
exactly if a session was open; the wires rise in some order of their own only if both lines were low. Whether writes held while no command is in
progress outlast the reset is left open (log entry 13); that the rise order and the answers are recorded, and that the answers are kept over reset, is
the model's (log entries 14, 16). -/
def Obligations.ResetEffect : Prop :=
  ∀ s : State, (s.inputAt 0).event = some .reset →
    ∃ t, step s = .next t ∧ t.lines = Lines.idle ∧ t.busy = false ∧ t.hung = false ∧
      t.errIll = false ∧ t.errOor = false ∧ t.errTimeout = false ∧ t.pending = [] ∧ t.trace = [] ∧ t.cfg = s.cfg ∧
      t.status = resetStatus s.cfg ∧ t.carrier = none ∧ t.waiting = s.waiting ∧
      (s.busy = true → t.cmdQueue = [] ∧
        t.hostLog = s.hostLog ++ s.completion ++ s.cmdQueue.map fun p => .commandDone p.ctx) ∧
      (s.busy = false →
        (t.cmdQueue = s.cmdQueue ∧ t.hostLog = s.hostLog ++ s.completion) ∨
        (t.cmdQueue = [] ∧ t.hostLog = s.hostLog ++ s.completion ++ s.cmdQueue.map fun p => .commandDone p.ctx)) ∧
      t.faults = (if s.session = true then addFault .resetInSession s.faults else s.faults) ∧
      (t.riseOrder.isSome = true ↔ s.sdaDrv = .low ∧ s.sclDrv = .low)

/-- 10_state R43, 70_reset R204: what power-on reset leaves, where the spec gives the value; and the fault set, which R43 and R204 do not list, is
empty, which is the model's choice (log entry 27). -/
def Obligations.PowerOnState : Prop :=
  State.reset.lines = Lines.idle ∧ State.reset.busy = false ∧ State.reset.errIll = false ∧
  State.reset.errOor = false ∧ State.reset.errTimeout = false ∧ State.reset.pending = [] ∧
  State.reset.hung = false ∧ State.reset.trace = [] ∧ State.reset.faults = []

/-! ## Invariants and whole-machine rules -/

/-- 10_state R28, R32, R35; 20_memory R66; 00_scope R8; 60_exceptions R172; 40_bus_transport R104, R106: every step keeps the control
invariant. -/
def Obligations.StepKeepsControlInvariant : Prop :=
  ∀ s t : State, s.Inv → step s = .next t → t.Inv

/-- 10_state R43, 00_scope R8: the state after reset meets the control invariant and the discipline invariant. -/
def Obligations.ResetMeetsInvariants : Prop := State.reset.Inv ∧ State.reset.Disciplined

/-- 40_bus_transport R119, 41_display_control R125: every step keeps the discipline invariant: while no fault is recorded, what is pending
ends with both lines released and no session, or between the bytes of an open session. -/
def Obligations.StepKeepsDiscipline : Prop :=
  ∀ s t : State, s.Inv → s.Disciplined → step s = .next t → t.Disciplined

/-- 40_bus_transport R110, R115, R119; 41_display_control R125: in every run from a state that meets the invariants, an idle block with no
fault recorded has both lines released and no session, or an open session with SDA released and SCL low. -/
def Obligations.GoodStatesHaveCoherentLines : Prop :=
  ∀ (n : Nat) (s t : State), s.Inv → s.Disciplined → Host.Core.run Sys2Proof.core n s = .next t → t.Good →
    t.lines.Coherent

/-- 10_state R41, 20_memory R57: the configuration, the ROMs in it, is constant for the life of the block. -/
def Obligations.ConfigurationIsConstant : Prop :=
  ∀ (n : Nat) (s t : State), Host.Core.run Sys2Proof.core n s = .next t → t.cfg = s.cfg

/-- 60_exceptions R172: the fault set is never cleared, not by reset either. -/
def Obligations.FaultsAreNeverCleared : Prop :=
  ∀ (n : Nat) (s t : State), Host.Core.run Sys2Proof.core n s = .next t → ∀ f ∈ s.faults, f ∈ t.faults

/-- No run of the machine ends in a fault or a refusal: every step answers a next state. It rests on 30_encoding R89 and 60_exceptions R172 and R181,
which give every word and every condition an effect after which the hardware goes on; that no step answers a fault is the model's choice (log entry
11), and so is the step of an idle or a hung block, which changes nothing of it (log entry 23). -/
def Obligations.EveryRunGoesOn : Prop :=
  ∀ (n : Nat) (s : State), ∃ t, Host.Core.run Sys2Proof.core n s = .next t

/-- 10_state R31, 60_exceptions R178: SESSION rises only in the step of an SCL_LOW, and falls only in the step of an SDA_REL or at reset. That the
timeout abort clears it in the step of its SDA_REL is the model's reading (log entry 10). -/
def Obligations.SessionChangesOnlyWithItsAction : Prop :=
  ∀ s t : State, s.Inv → step s = .next t → t.session ≠ s.session →
    (s.inputAt 0).event = some .reset ∨
    (t.session = true ∧ t.trace = s.trace ++ [.sclLow]) ∨ (t.session = false ∧ t.trace = s.trace ++ [.sdaRel])

/-- 10_state R29, 40_bus_transport R101: apart from reset, a step performs at most one line action, and the drive states are what that action
makes of them. -/
def Obligations.DrivesChangeOnlyByActions : Prop :=
  ∀ s t : State, step s = .next t → (s.inputAt 0).event ≠ some .reset →
    (t.trace = s.trace ∧ t.sdaDrv = s.sdaDrv ∧ t.sclDrv = s.sclDrv) ∨
    ∃ a, t.trace = s.trace ++ [a] ∧ t.sdaDrv = (s.lines.after a {}).sda ∧ t.sclDrv = (s.lines.after a {}).scl

/-- 40_bus_transport R102, R108; 70_reset R217: the levels the peripheral drives, in the acknowledgement clock or at any time, change nothing: two
runs that differ only in them have the same trace, the same STATUS and the same answers to the host. -/
def Obligations.PeripheralLevelsAreIgnored : Prop :=
  ∀ (n : Nat) (s₁ s₂ t₁ t₂ : State), s₁.forgetLevels = s₂.forgetLevels →
    Host.Core.run Sys2Proof.core n s₁ = .next t₁ → Host.Core.run Sys2Proof.core n s₂ = .next t₂ →
    t₁.trace = t₂.trace ∧ t₁.status = t₂.status ∧ t₁.hostLog = t₂.hostLog ∧ t₁.forgetLevels = t₂.forgetLevels

/-- 10_state R26, R40, R43: CMDR, SR, BITCNT, IDX and COL cannot be observed: two runs that differ only in them have the same trace, the same
STATUS and the same answers to the host; and from states with BUSY = 0, where every datapath register is dead, the same holds of runs that differ in
SPTR as well. -/
def Obligations.DatapathIsUnobservable : Prop :=
  (∀ (n : Nat) (s₁ s₂ t₁ t₂ : State), s₁.forgetDatapath = s₂.forgetDatapath →
    Host.Core.run Sys2Proof.core n s₁ = .next t₁ → Host.Core.run Sys2Proof.core n s₂ = .next t₂ →
    t₁.trace = t₂.trace ∧ t₁.status = t₂.status ∧ t₁.hostLog = t₂.hostLog ∧ t₁.forgetDatapath = t₂.forgetDatapath) ∧
  (∀ (n : Nat) (s₁ s₂ t₁ t₂ : State), s₁.busy = false → s₁.forgetDatapath.forgetSptr = s₂.forgetDatapath.forgetSptr →
    Host.Core.run Sys2Proof.core n s₁ = .next t₁ → Host.Core.run Sys2Proof.core n s₂ = .next t₂ →
    t₁.trace = t₂.trace ∧ t₁.status = t₂.status ∧ t₁.hostLog = t₂.hostLog ∧ t₁.lines = t₂.lines ∧ t₁.faults = t₂.faults)

/-- 60_exceptions R182: an error bit has no effect on later commands: two runs that differ only in the error bits, and in what a STATUS read
of them has answered, have the same trace and the same lines, BUSY, SESSION and faults. -/
def Obligations.ErrorBitsHaveNoEffect : Prop :=
  ∀ (n : Nat) (s₁ s₂ t₁ t₂ : State), s₁.forgetErrors = s₂.forgetErrors →
    Host.Core.run Sys2Proof.core n s₁ = .next t₁ → Host.Core.run Sys2Proof.core n s₂ = .next t₂ →
    t₁.trace = t₂.trace ∧ t₁.lines = t₂.lines ∧ t₁.busy = t₂.busy ∧ t₁.faults = t₂.faults ∧ t₁.forgetErrors = t₂.forgetErrors

/-! ## What the wire shows, counts, ROM, assembler -/

/-- 40_bus_transport R117, R118; 42_text_output R146: the trace of sessions one after another from released lines decodes to exactly one
well-formed frame for each, with its address and its payload. -/
def Obligations.SessionsDecodeToTheirFrames : Prop :=
  ∀ l : List (Byte × List Byte),
    decodeFrames (l.flatMap fun x => sessionActions x.1 x.2) = l.map fun x => .wellFormed x.1 x.2

/-- 40_bus_transport R117 (b): inside a byte every SDA action happens while SCL is low, so a byte makes no start or stop condition. -/
def Obligations.BytesMakeNoConditions : Prop :=
  ∀ (v : Byte) (before after : List LineAction) (a : LineAction) (r : Receiver),
    byteActions v = before ++ a :: after → a = .sdaLow ∨ a = .sdaRel → r.scl = .low →
    (before.foldl Receiver.on r).scl = .low

/-- 40_bus_transport R107, 43_display_maintenance R165: the action counts. -/
def Obligations.ActionCounts : Prop :=
  startActions.length = 2 ∧ stopActions.length = 3 ∧
  (∀ v : Byte, (byteActions v).length = 27 + popcount v ∧ 27 + popcount v ≤ 35) ∧
  (byteActions 0x00).length = 27 ∧ (byteActions 0xFF).length = 35 ∧
  (∀ (a : Byte) (bs : List Byte),
    (sessionActions a bs).length = 2 + (27 + popcount a) + (bs.map fun b => 27 + popcount b).sum + 3) ∧
  (∀ p : Params, (clearActions p).length =
    (sessionActions p.addrCmd [0x00, 0x10, p.pageMarker]).length + (5 + (27 + popcount p.addrData) + 27 * p.clearCount) +
      (sessionActions p.addrCmd [p.shiftCmd, 0x00]).length) ∧
  (∀ p : Params, (p.pageCount = 4 → p.clearCount = 512) ∧ (p.pageCount = 8 → p.clearCount = 1024) ∧
    (sessionActions p.addrData (List.replicate p.clearCount 0x00)).length = 2 + (27 + popcount p.addrData) + 27 * p.clearCount + 3)

/-- 00_scope R14, 20_memory R59: a store in a canonical ROM is read back, and no other address changes. The form, and the store, with which a ROM
is built and which the machine itself never makes, are the model's (log entry 15). -/
def Obligations.RomStoreThenRead : Prop :=
  ∀ (m : List Host.Cell) (x y : Nat) (b : Byte), Memory.wf m = true → x < 65536 →
    Memory.read (Memory.write m x b) y = if y = x then b else Memory.read m y

/-- 20_memory R59: a string ROM is its bytes: two canonical ROMs that read alike at every address are equal. -/
def Obligations.RomIsDeterminedByItsBytes : Prop :=
  ∀ m₁ m₂ : List Host.Cell, Memory.wf m₁ = true → Memory.wf m₂ = true →
    (∀ x, x < 65536 → Memory.read m₁ x = Memory.read m₂ x) → m₁ = m₂

/-- 30_encoding R90, R91: the assembler takes exactly the lines whose operands fit, gives each plain line its own command with the operands as they
stand, truncating none, and expands the pseudo-commands as R91's table says. That CMDS and DATA may have no byte is the model's choice (log entry
25). -/
def Obligations.AssemblerTakesFittingLines : Prop :=
  (∀ (p : Params) (l : SourceLine), (assemble p l).isSome = l.wellFormed) ∧
  (∀ (p : Params) (a b : Byte) (x : StrAddr),
    assemble p (.openBus a.toNat) = some [.openBus a] ∧ assemble p (.writeByte a.toNat) = some [.writeByte a] ∧
    assemble p .closeBus = some [.closeBus] ∧ assemble p .init = some [.init] ∧
    assemble p (.setcur a.toNat b.toNat) = some [.setcur a b] ∧ assemble p (.putc a.toNat) = some [.putc a] ∧
    assemble p (.puts x.toNat) = some [.puts x] ∧ assemble p (.shift a.toNat) = some [.shift a] ∧
    assemble p .clear = some [.clear]) ∧
  (∀ (p : Params) (a : Byte) (bs : List Byte),
    assemble p (.send a.toNat (bs.map BitVec.toNat)) = some (.openBus a :: bs.map .writeByte ++ [.closeBus]) ∧
    assemble p (.cmds (bs.map BitVec.toNat)) = assemble p (.send p.addrCmd.toNat (bs.map BitVec.toNat)) ∧
    assemble p (.data (bs.map BitVec.toNat)) = assemble p (.send p.addrData.toNat (bs.map BitVec.toNat)) ∧
    assemble p .home = assemble p (.setcur 0 0) ∧ assemble p .unshift = assemble p (.shift 0))

/-! ## Program order -/

/-- 20_memory R66, R68; 10_state R35: the accesses of a host context take effect in its program order. (1) An access whose context has a CMD write
that is not complete, or an older access that waits, waits behind the others; nothing else changes. (2) An access takes effect only where its context
has no incomplete CMD write and no older access of that context waits, and no other access leaves the line. (3) The host is answered for a load
or a STATUS write only then, and a CMD write completes only in a step that leaves the block idle with nothing pending, whose context has none
left incomplete. That the accesses of several contexts wait in one line is the model's (log entries 4, 28). -/
def Obligations.HostAccessesKeepProgramOrder : Prop :=
  (∀ (s : State) (a : HostAccess), (s.inputAt 0).event = some (.access a) →
    s.inFlight a.ctx = true ∨ (∃ b ∈ s.waiting, b.ctx = a.ctx) →
    step s = .next { s with
      inp := s.inputAt 0, env := s.env.tail, tick := s.tick + 1, waiting := s.waiting ++ [a] }) ∧
  (∀ (s s' : State) (a : HostAccess), s.Serves a s' → s.inFlight a.ctx = false ∧
    ((s'.waiting = s.waiting ∧ ∀ b ∈ s.waiting, b.ctx ≠ a.ctx) ∨
      ∃ pre post, s.waiting = pre ++ a :: post ∧ (∀ b ∈ pre, b.ctx ≠ a.ctx) ∧ s'.waiting = pre ++ post)) ∧
  (∀ s t : State, s.Inv → step s = .next t → ∃ more, t.hostLog = s.hostLog ++ more ∧
    (∀ c w, .data c w ∈ more ∨ .statusWritten c ∈ more → s.inFlight c = false) ∧
    (∀ c, .commandDone c ∈ more → t.busy = false ∧ t.pending = [] ∧ t.inFlight c = false))

/-! ## The pre-scan without a sentinel -/

/-- 42_text_output R152, 20_memory R61: the pre-scan of a hardened PUTS in a string ROM without a sentinel. (1) Each step passes over one character,
in range or not, and advances SPTR modulo 65536. (2) It never ends before reset, whatever accesses come and whatever the peripheral does: BUSY stays 1,
no error is raised, no CMD write completes and nothing is emitted; where no access comes SPTR goes round the ROM. That an out-of-range character
raises nothing there is R152's, against the pseudocode of R150 (log entry 30). -/
def Obligations.SentinelFreeScanNeverEnds : Prop :=
  (∀ (s : State) (a : StrAddr) (ms : List Micro), s.EngineMoves → s.pending = .scan a :: ms →
    (∀ b, strRead s.cfg b ≠ Config.sentinel) →
    step s = .next { s with
      inp := s.inputAt 0, env := s.env.tail, tick := s.tick + 1
      sptr := BitVec.ofNat 16 ((s.sptr.toNat + 1) % 65536) }) ∧
  (∀ (s : State) (a : StrAddr) (ms : List Micro) (n : Nat), s.busy = true → s.hung = false → s.pending = .scan a :: ms →
    (∀ b, strRead s.cfg b ≠ Config.sentinel) → s.NoReset n →
    ∃ t, Host.Core.run Sys2Proof.core n s = .next t ∧ t.busy = true ∧ t.pending = s.pending ∧ t.carrier = s.carrier ∧
      t.trace = s.trace ∧ t.lines = s.lines ∧ (t.errOor = true → s.errOor = true) ∧
      t.hostLog.countP HostAnswer.isCompletion = s.hostLog.countP HostAnswer.isCompletion ∧
      (s.Calm n → t.sptr = BitVec.ofNat 16 ((s.sptr.toNat + n) % 65536)))
end

