-- ==== Sys2Proof/Laws/Memory.lean ====
section
/-!
SUPPORT. The canonical form of a ROM's cells: the one operation that makes cells keeps it.
-/

namespace Sys2Proof.Machine

theorem Memory.wfFrom_mono {lo lo' : Nat} (h : lo' ≤ lo) : ∀ {m : List Host.Cell}, Memory.wfFrom lo m = true → Memory.wfFrom lo' m = true
  | [], _ => rfl
  | (a, b) :: m, hm => by
    simp only [Memory.wfFrom, Bool.and_eq_true, decide_eq_true_eq] at hm ⊢
    exact ⟨⟨⟨by omega, hm.1.1.2⟩, hm.1.2⟩, hm.2⟩

/-- A store at an address of the space keeps the canonical form. -/
theorem Memory.wfFrom_write {x : Nat} (hx : x < 65536) (b : Byte) :
    ∀ {m : List Host.Cell} {lo : Nat}, lo ≤ x → Memory.wfFrom lo m = true → Memory.wfFrom lo (Memory.write m x b) = true
  | [], lo, hlo, _ => by
    by_cases hb : b = 0#8 <;> simp [Memory.write, Memory.wfFrom, hb, hlo, hx]
  | (a, c) :: m, lo, hlo, hm => by
    simp only [Memory.wfFrom, Bool.and_eq_true, decide_eq_true_eq] at hm
    obtain ⟨⟨⟨h1, h2⟩, h3⟩, h4⟩ := hm
    unfold Memory.write
    split_ifs with hxa hb hxe hb
    · simp [Memory.wfFrom, h1, h2, h4, by simpa using h3]
    · have hb' : ¬b = 0#8 := hb
      have : x + 1 ≤ a := hxa
      simp [Memory.wfFrom, hlo, hx, hb', this, h2, h4, by simpa using h3]
    · exact Memory.wfFrom_mono (by omega) h4
    · have hb' : ¬b = 0#8 := hb
      subst hxe
      simp [Memory.wfFrom, hlo, hx, hb', h4]
    · have ih := Memory.wfFrom_write hx b (m := m) (lo := a + 1) (by omega) h4
      simp [Memory.wfFrom, h1, h2, ih, by simpa using h3]

/-- Every memory operation keeps the canonical form (the read changes nothing). -/
theorem Memory.wf_write {m : List Host.Cell} (hm : Memory.wf m = true) {x : Nat} (hx : x < 65536) (b : Byte) :
    Memory.wf (Memory.write m x b) = true := Memory.wfFrom_write hx b (Nat.zero_le x) hm

/-- An address below every cell reads as 0x00. -/
theorem Memory.read_below : ∀ {m : List Host.Cell} {lo x : Nat}, Memory.wfFrom lo m = true → x < lo → Memory.read m x = 0
  | [], _, _, _, _ => rfl
  | (a, b) :: m, lo, x, hm, hx => by
    simp only [Memory.wfFrom, Bool.and_eq_true, decide_eq_true_eq] at hm
    have : a ≠ x := by omega
    simp only [Memory.read, this, if_false]
    exact Memory.read_below hm.2 (by omega)

end Sys2Proof.Machine
end

