-- ==== Sys2Proof/Laws/Build.lean ====
section
/-!
SUPPORT. The build of the block meets R8's constraints, so its string ROM is canonical.
-/

namespace Sys2Proof

theorem Params.someLegal_legal : Params.someLegal.legal = true := by
  have hfont : Params.someLegal.font.length = 175 := List.length_replicate
  simp only [Params.legal, hfont]
  decide

/-- Whatever the chip was built with, it is legal (00_scope R8). -/
theorem Config.params_legal : Config.params.legal = true := by
  unfold Config.params
  split
  · assumption
  · exact Params.someLegal_legal

/-- A legal build has a canonical string ROM. -/
theorem Params.strRom_wf {p : Params} (h : p.legal = true) : Machine.Memory.wf p.strRom = true := by
  simp only [Params.legal, Bool.and_eq_true] at h
  exact h.1.2

namespace Machine

/-- The memory of the state after reset has the canonical form. -/
theorem State.reset_memory_wf : Memory.wf State.reset.cfg.strRom = true := Params.strRom_wf Config.params_legal

end Machine

end Sys2Proof
end

