-- ==== Sys2Proof/Laws/Decode.lean ====
section
/-!
SUPPORT. The fields of the encoder's four formats, bit by bit.
-/

namespace Sys2Proof

@[simp] theorem opField_formatB (op : BitVec 4) (a : Byte) : opField (formatB op a) = op := by
  apply BitVec.eq_of_getElem_eq
  intro k hk
  interval_cases k <;> simp [opField, formatB, fieldAt]

@[simp] theorem opField_formatZ (op : BitVec 4) : opField (formatZ op) = op := by
  apply BitVec.eq_of_getElem_eq
  intro k hk
  interval_cases k <;> simp [opField, formatZ, fieldAt]

@[simp] theorem opField_formatCP (op : BitVec 4) (a p : Byte) : opField (formatCP op a p) = op := by
  apply BitVec.eq_of_getElem_eq
  intro k hk
  interval_cases k <;> simp [opField, formatCP, fieldAt]

@[simp] theorem opField_formatS (op : BitVec 4) (a : StrAddr) : opField (formatS op a) = op := by
  apply BitVec.eq_of_getElem_eq
  intro k hk
  interval_cases k <;> simp [opField, formatS, fieldAt]

@[simp] theorem fieldA_formatB (op : BitVec 4) (a : Byte) : fieldA (formatB op a) = a := by
  apply BitVec.eq_of_getElem_eq
  intro k hk
  interval_cases k <;> simp [fieldA, formatB, fieldAt]

@[simp] theorem fieldA_formatCP (op : BitVec 4) (a p : Byte) : fieldA (formatCP op a p) = a := by
  apply BitVec.eq_of_getElem_eq
  intro k hk
  interval_cases k <;> simp [fieldA, formatCP, fieldAt]

@[simp] theorem fieldP_formatCP (op : BitVec 4) (a p : Byte) : fieldP (formatCP op a p) = p := by
  apply BitVec.eq_of_getElem_eq
  intro k hk
  interval_cases k <;> simp [fieldP, formatCP, fieldAt]

@[simp] theorem fieldS_formatS (op : BitVec 4) (a : StrAddr) : fieldS (formatS op a) = a := by
  apply BitVec.eq_of_getElem_eq
  intro k hk
  interval_cases k <;> simp [fieldS, formatS, fieldAt]

/-- The bits a format B word has under its row's mask. -/
@[simp] theorem formatB_mask (op : BitVec 4) (a : Byte) : formatB op a &&& 0xFF00FFFF#32 = formatZ op := by
  apply BitVec.eq_of_getElem_eq
  intro k hk
  interval_cases k <;> simp [formatB, formatZ, fieldAt]

/-- The bits a format CP word has under its row's mask. -/
@[simp] theorem formatCP_mask (op : BitVec 4) (a p : Byte) : formatCP op a p &&& 0xFF00FF00#32 = formatZ op := by
  apply BitVec.eq_of_getElem_eq
  intro k hk
  interval_cases k <;> simp [formatCP, formatZ, fieldAt]

/-- The bits a format S word has under its row's mask. -/
@[simp] theorem formatS_mask (op : BitVec 4) (a : StrAddr) : formatS op a &&& 0xFFFF0000#32 = formatZ op := by
  apply BitVec.eq_of_getElem_eq
  intro k hk
  interval_cases k <;> simp [formatS, formatZ, fieldAt]

end Sys2Proof
end

