-- ==== Sys2Proof/Laws/State.lean ====
section
/-!
SUPPORT. What each named update of the state does to each field, true by unfolding it once, so that no proof unfolds a record update.
-/

namespace Sys2Proof.Machine

variable (s : State)

/-! State.latch -/

@[simp] theorem State.latch_sdaDrv : s.latch.sdaDrv = s.sdaDrv := rfl
@[simp] theorem State.latch_sclDrv : s.latch.sclDrv = s.sclDrv := rfl
@[simp] theorem State.latch_session : s.latch.session = s.session := rfl
@[simp] theorem State.latch_busy : s.latch.busy = s.busy := rfl
@[simp] theorem State.latch_errIll : s.latch.errIll = s.errIll := rfl
@[simp] theorem State.latch_errOor : s.latch.errOor = s.errOor := rfl
@[simp] theorem State.latch_errTimeout : s.latch.errTimeout = s.errTimeout := rfl
@[simp] theorem State.latch_cmdr : s.latch.cmdr = s.cmdr := rfl
@[simp] theorem State.latch_sr : s.latch.sr = s.sr := rfl
@[simp] theorem State.latch_bitcnt : s.latch.bitcnt = s.bitcnt := rfl
@[simp] theorem State.latch_idx : s.latch.idx = s.idx := rfl
@[simp] theorem State.latch_col : s.latch.col = s.col := rfl
@[simp] theorem State.latch_sptr : s.latch.sptr = s.sptr := rfl
@[simp] theorem State.latch_pending : s.latch.pending = s.pending := rfl
@[simp] theorem State.latch_hung : s.latch.hung = s.hung := rfl
@[simp] theorem State.latch_trace : s.latch.trace = s.trace := rfl
@[simp] theorem State.latch_cmdQueue : s.latch.cmdQueue = s.cmdQueue := rfl
@[simp] theorem State.latch_carrier : s.latch.carrier = s.carrier := rfl
@[simp] theorem State.latch_waiting : s.latch.waiting = s.waiting := rfl
@[simp] theorem State.latch_faults : s.latch.faults = s.faults := rfl
@[simp] theorem State.latch_hostLog : s.latch.hostLog = s.hostLog := rfl
@[simp] theorem State.latch_riseOrder : s.latch.riseOrder = s.riseOrder := rfl
@[simp] theorem State.latch_inp : s.latch.inp = s.inputAt 0 := rfl
@[simp] theorem State.latch_env : s.latch.env = s.env.tail := rfl
@[simp] theorem State.latch_tick : s.latch.tick = s.tick + 1 := rfl
@[simp] theorem State.latch_cfg : s.latch.cfg = s.cfg := rfl

/-! State.accept -/

@[simp] theorem State.accept_sdaDrv (w : Word) : (s.accept w).sdaDrv = s.sdaDrv := rfl
@[simp] theorem State.accept_sclDrv (w : Word) : (s.accept w).sclDrv = s.sclDrv := rfl
@[simp] theorem State.accept_session (w : Word) : (s.accept w).session = s.session := rfl
@[simp] theorem State.accept_busy (w : Word) : (s.accept w).busy = true := rfl
@[simp] theorem State.accept_errIll (w : Word) : (s.accept w).errIll = s.errIll := rfl
@[simp] theorem State.accept_errOor (w : Word) : (s.accept w).errOor = s.errOor := rfl
@[simp] theorem State.accept_errTimeout (w : Word) : (s.accept w).errTimeout = s.errTimeout := rfl
@[simp] theorem State.accept_cmdr (w : Word) : (s.accept w).cmdr = w := rfl
@[simp] theorem State.accept_sr (w : Word) : (s.accept w).sr = s.sr := rfl
@[simp] theorem State.accept_bitcnt (w : Word) : (s.accept w).bitcnt = s.bitcnt := rfl
@[simp] theorem State.accept_idx (w : Word) : (s.accept w).idx = s.idx := rfl
@[simp] theorem State.accept_col (w : Word) : (s.accept w).col = s.col := rfl
@[simp] theorem State.accept_sptr (w : Word) : (s.accept w).sptr = s.sptr := rfl
@[simp] theorem State.accept_pending (w : Word) : (s.accept w).pending = s.pending := rfl
@[simp] theorem State.accept_hung (w : Word) : (s.accept w).hung = s.hung := rfl
@[simp] theorem State.accept_trace (w : Word) : (s.accept w).trace = s.trace := rfl
@[simp] theorem State.accept_cmdQueue (w : Word) : (s.accept w).cmdQueue = s.cmdQueue := rfl
@[simp] theorem State.accept_carrier (w : Word) : (s.accept w).carrier = s.carrier := rfl
@[simp] theorem State.accept_waiting (w : Word) : (s.accept w).waiting = s.waiting := rfl
@[simp] theorem State.accept_faults (w : Word) : (s.accept w).faults = s.faults := rfl
@[simp] theorem State.accept_hostLog (w : Word) : (s.accept w).hostLog = s.hostLog := rfl
@[simp] theorem State.accept_riseOrder (w : Word) : (s.accept w).riseOrder = s.riseOrder := rfl
@[simp] theorem State.accept_inp (w : Word) : (s.accept w).inp = s.inp := rfl
@[simp] theorem State.accept_env (w : Word) : (s.accept w).env = s.env := rfl
@[simp] theorem State.accept_tick (w : Word) : (s.accept w).tick = s.tick := rfl
@[simp] theorem State.accept_cfg (w : Word) : (s.accept w).cfg = s.cfg := rfl

/-! State.load -/

@[simp] theorem State.load_sdaDrv (ms : List Micro) : (s.load ms).sdaDrv = s.sdaDrv := rfl
@[simp] theorem State.load_sclDrv (ms : List Micro) : (s.load ms).sclDrv = s.sclDrv := rfl
@[simp] theorem State.load_session (ms : List Micro) : (s.load ms).session = s.session := rfl
@[simp] theorem State.load_busy (ms : List Micro) : (s.load ms).busy = s.busy := rfl
@[simp] theorem State.load_errIll (ms : List Micro) : (s.load ms).errIll = s.errIll := rfl
@[simp] theorem State.load_errOor (ms : List Micro) : (s.load ms).errOor = s.errOor := rfl
@[simp] theorem State.load_errTimeout (ms : List Micro) : (s.load ms).errTimeout = s.errTimeout := rfl
@[simp] theorem State.load_cmdr (ms : List Micro) : (s.load ms).cmdr = s.cmdr := rfl
@[simp] theorem State.load_sr (ms : List Micro) : (s.load ms).sr = s.sr := rfl
@[simp] theorem State.load_bitcnt (ms : List Micro) : (s.load ms).bitcnt = s.bitcnt := rfl
@[simp] theorem State.load_idx (ms : List Micro) : (s.load ms).idx = s.idx := rfl
@[simp] theorem State.load_col (ms : List Micro) : (s.load ms).col = s.col := rfl
@[simp] theorem State.load_sptr (ms : List Micro) : (s.load ms).sptr = s.sptr := rfl
@[simp] theorem State.load_pending (ms : List Micro) : (s.load ms).pending = ms := rfl
@[simp] theorem State.load_hung (ms : List Micro) : (s.load ms).hung = s.hung := rfl
@[simp] theorem State.load_trace (ms : List Micro) : (s.load ms).trace = s.trace := rfl
@[simp] theorem State.load_cmdQueue (ms : List Micro) : (s.load ms).cmdQueue = s.cmdQueue := rfl
@[simp] theorem State.load_carrier (ms : List Micro) : (s.load ms).carrier = s.carrier := rfl
@[simp] theorem State.load_waiting (ms : List Micro) : (s.load ms).waiting = s.waiting := rfl
@[simp] theorem State.load_faults (ms : List Micro) : (s.load ms).faults = s.faults := rfl
@[simp] theorem State.load_hostLog (ms : List Micro) : (s.load ms).hostLog = s.hostLog := rfl
@[simp] theorem State.load_riseOrder (ms : List Micro) : (s.load ms).riseOrder = s.riseOrder := rfl
@[simp] theorem State.load_inp (ms : List Micro) : (s.load ms).inp = s.inp := rfl
@[simp] theorem State.load_env (ms : List Micro) : (s.load ms).env = s.env := rfl
@[simp] theorem State.load_tick (ms : List Micro) : (s.load ms).tick = s.tick := rfl
@[simp] theorem State.load_cfg (ms : List Micro) : (s.load ms).cfg = s.cfg := rfl

/-! State.push -/

@[simp] theorem State.push_sdaDrv (ms : List Micro) : (s.push ms).sdaDrv = s.sdaDrv := rfl
@[simp] theorem State.push_sclDrv (ms : List Micro) : (s.push ms).sclDrv = s.sclDrv := rfl
@[simp] theorem State.push_session (ms : List Micro) : (s.push ms).session = s.session := rfl
@[simp] theorem State.push_busy (ms : List Micro) : (s.push ms).busy = s.busy := rfl
@[simp] theorem State.push_errIll (ms : List Micro) : (s.push ms).errIll = s.errIll := rfl
@[simp] theorem State.push_errOor (ms : List Micro) : (s.push ms).errOor = s.errOor := rfl
@[simp] theorem State.push_errTimeout (ms : List Micro) : (s.push ms).errTimeout = s.errTimeout := rfl
@[simp] theorem State.push_cmdr (ms : List Micro) : (s.push ms).cmdr = s.cmdr := rfl
@[simp] theorem State.push_sr (ms : List Micro) : (s.push ms).sr = s.sr := rfl
@[simp] theorem State.push_bitcnt (ms : List Micro) : (s.push ms).bitcnt = s.bitcnt := rfl
@[simp] theorem State.push_idx (ms : List Micro) : (s.push ms).idx = s.idx := rfl
@[simp] theorem State.push_col (ms : List Micro) : (s.push ms).col = s.col := rfl
@[simp] theorem State.push_sptr (ms : List Micro) : (s.push ms).sptr = s.sptr := rfl
@[simp] theorem State.push_pending (ms : List Micro) : (s.push ms).pending = ms ++ s.pending := rfl
@[simp] theorem State.push_hung (ms : List Micro) : (s.push ms).hung = s.hung := rfl
@[simp] theorem State.push_trace (ms : List Micro) : (s.push ms).trace = s.trace := rfl
@[simp] theorem State.push_cmdQueue (ms : List Micro) : (s.push ms).cmdQueue = s.cmdQueue := rfl
@[simp] theorem State.push_carrier (ms : List Micro) : (s.push ms).carrier = s.carrier := rfl
@[simp] theorem State.push_waiting (ms : List Micro) : (s.push ms).waiting = s.waiting := rfl
@[simp] theorem State.push_faults (ms : List Micro) : (s.push ms).faults = s.faults := rfl
@[simp] theorem State.push_hostLog (ms : List Micro) : (s.push ms).hostLog = s.hostLog := rfl
@[simp] theorem State.push_riseOrder (ms : List Micro) : (s.push ms).riseOrder = s.riseOrder := rfl
@[simp] theorem State.push_inp (ms : List Micro) : (s.push ms).inp = s.inp := rfl
@[simp] theorem State.push_env (ms : List Micro) : (s.push ms).env = s.env := rfl
@[simp] theorem State.push_tick (ms : List Micro) : (s.push ms).tick = s.tick := rfl
@[simp] theorem State.push_cfg (ms : List Micro) : (s.push ms).cfg = s.cfg := rfl

/-! State.setSptr -/

@[simp] theorem State.setSptr_sdaDrv (a : StrAddr) : (s.setSptr a).sdaDrv = s.sdaDrv := rfl
@[simp] theorem State.setSptr_sclDrv (a : StrAddr) : (s.setSptr a).sclDrv = s.sclDrv := rfl
@[simp] theorem State.setSptr_session (a : StrAddr) : (s.setSptr a).session = s.session := rfl
@[simp] theorem State.setSptr_busy (a : StrAddr) : (s.setSptr a).busy = s.busy := rfl
@[simp] theorem State.setSptr_errIll (a : StrAddr) : (s.setSptr a).errIll = s.errIll := rfl
@[simp] theorem State.setSptr_errOor (a : StrAddr) : (s.setSptr a).errOor = s.errOor := rfl
@[simp] theorem State.setSptr_errTimeout (a : StrAddr) : (s.setSptr a).errTimeout = s.errTimeout := rfl
@[simp] theorem State.setSptr_cmdr (a : StrAddr) : (s.setSptr a).cmdr = s.cmdr := rfl
@[simp] theorem State.setSptr_sr (a : StrAddr) : (s.setSptr a).sr = s.sr := rfl
@[simp] theorem State.setSptr_bitcnt (a : StrAddr) : (s.setSptr a).bitcnt = s.bitcnt := rfl
@[simp] theorem State.setSptr_idx (a : StrAddr) : (s.setSptr a).idx = s.idx := rfl
@[simp] theorem State.setSptr_col (a : StrAddr) : (s.setSptr a).col = s.col := rfl
@[simp] theorem State.setSptr_sptr (a : StrAddr) : (s.setSptr a).sptr = a := rfl
@[simp] theorem State.setSptr_pending (a : StrAddr) : (s.setSptr a).pending = s.pending := rfl
@[simp] theorem State.setSptr_hung (a : StrAddr) : (s.setSptr a).hung = s.hung := rfl
@[simp] theorem State.setSptr_trace (a : StrAddr) : (s.setSptr a).trace = s.trace := rfl
@[simp] theorem State.setSptr_cmdQueue (a : StrAddr) : (s.setSptr a).cmdQueue = s.cmdQueue := rfl
@[simp] theorem State.setSptr_carrier (a : StrAddr) : (s.setSptr a).carrier = s.carrier := rfl
@[simp] theorem State.setSptr_waiting (a : StrAddr) : (s.setSptr a).waiting = s.waiting := rfl
@[simp] theorem State.setSptr_faults (a : StrAddr) : (s.setSptr a).faults = s.faults := rfl
@[simp] theorem State.setSptr_hostLog (a : StrAddr) : (s.setSptr a).hostLog = s.hostLog := rfl
@[simp] theorem State.setSptr_riseOrder (a : StrAddr) : (s.setSptr a).riseOrder = s.riseOrder := rfl
@[simp] theorem State.setSptr_inp (a : StrAddr) : (s.setSptr a).inp = s.inp := rfl
@[simp] theorem State.setSptr_env (a : StrAddr) : (s.setSptr a).env = s.env := rfl
@[simp] theorem State.setSptr_tick (a : StrAddr) : (s.setSptr a).tick = s.tick := rfl
@[simp] theorem State.setSptr_cfg (a : StrAddr) : (s.setSptr a).cfg = s.cfg := rfl

/-! State.recordIf -/

@[simp] theorem State.recordIf_sdaDrv (c : Bool) (f : Fault) : (s.recordIf c f).sdaDrv = s.sdaDrv := rfl
@[simp] theorem State.recordIf_sclDrv (c : Bool) (f : Fault) : (s.recordIf c f).sclDrv = s.sclDrv := rfl
@[simp] theorem State.recordIf_session (c : Bool) (f : Fault) : (s.recordIf c f).session = s.session := rfl
@[simp] theorem State.recordIf_busy (c : Bool) (f : Fault) : (s.recordIf c f).busy = s.busy := rfl
@[simp] theorem State.recordIf_errIll (c : Bool) (f : Fault) : (s.recordIf c f).errIll = s.errIll := rfl
@[simp] theorem State.recordIf_errOor (c : Bool) (f : Fault) : (s.recordIf c f).errOor = s.errOor := rfl
@[simp] theorem State.recordIf_errTimeout (c : Bool) (f : Fault) : (s.recordIf c f).errTimeout = s.errTimeout := rfl
@[simp] theorem State.recordIf_cmdr (c : Bool) (f : Fault) : (s.recordIf c f).cmdr = s.cmdr := rfl
@[simp] theorem State.recordIf_sr (c : Bool) (f : Fault) : (s.recordIf c f).sr = s.sr := rfl
@[simp] theorem State.recordIf_bitcnt (c : Bool) (f : Fault) : (s.recordIf c f).bitcnt = s.bitcnt := rfl
@[simp] theorem State.recordIf_idx (c : Bool) (f : Fault) : (s.recordIf c f).idx = s.idx := rfl
@[simp] theorem State.recordIf_col (c : Bool) (f : Fault) : (s.recordIf c f).col = s.col := rfl
@[simp] theorem State.recordIf_sptr (c : Bool) (f : Fault) : (s.recordIf c f).sptr = s.sptr := rfl
@[simp] theorem State.recordIf_pending (c : Bool) (f : Fault) : (s.recordIf c f).pending = s.pending := rfl
@[simp] theorem State.recordIf_hung (c : Bool) (f : Fault) : (s.recordIf c f).hung = s.hung := rfl
@[simp] theorem State.recordIf_trace (c : Bool) (f : Fault) : (s.recordIf c f).trace = s.trace := rfl
@[simp] theorem State.recordIf_cmdQueue (c : Bool) (f : Fault) : (s.recordIf c f).cmdQueue = s.cmdQueue := rfl
@[simp] theorem State.recordIf_carrier (c : Bool) (f : Fault) : (s.recordIf c f).carrier = s.carrier := rfl
@[simp] theorem State.recordIf_waiting (c : Bool) (f : Fault) : (s.recordIf c f).waiting = s.waiting := rfl
@[simp] theorem State.recordIf_faults (c : Bool) (f : Fault) : (s.recordIf c f).faults = if c then addFault f s.faults else s.faults := rfl
@[simp] theorem State.recordIf_hostLog (c : Bool) (f : Fault) : (s.recordIf c f).hostLog = s.hostLog := rfl
@[simp] theorem State.recordIf_riseOrder (c : Bool) (f : Fault) : (s.recordIf c f).riseOrder = s.riseOrder := rfl
@[simp] theorem State.recordIf_inp (c : Bool) (f : Fault) : (s.recordIf c f).inp = s.inp := rfl
@[simp] theorem State.recordIf_env (c : Bool) (f : Fault) : (s.recordIf c f).env = s.env := rfl
@[simp] theorem State.recordIf_tick (c : Bool) (f : Fault) : (s.recordIf c f).tick = s.tick := rfl
@[simp] theorem State.recordIf_cfg (c : Bool) (f : Fault) : (s.recordIf c f).cfg = s.cfg := rfl

/-! State.answer -/

@[simp] theorem State.answer_sdaDrv (r : HostAnswer) : (s.answer r).sdaDrv = s.sdaDrv := rfl
@[simp] theorem State.answer_sclDrv (r : HostAnswer) : (s.answer r).sclDrv = s.sclDrv := rfl
@[simp] theorem State.answer_session (r : HostAnswer) : (s.answer r).session = s.session := rfl
@[simp] theorem State.answer_busy (r : HostAnswer) : (s.answer r).busy = s.busy := rfl
@[simp] theorem State.answer_errIll (r : HostAnswer) : (s.answer r).errIll = s.errIll := rfl
@[simp] theorem State.answer_errOor (r : HostAnswer) : (s.answer r).errOor = s.errOor := rfl
@[simp] theorem State.answer_errTimeout (r : HostAnswer) : (s.answer r).errTimeout = s.errTimeout := rfl
@[simp] theorem State.answer_cmdr (r : HostAnswer) : (s.answer r).cmdr = s.cmdr := rfl
@[simp] theorem State.answer_sr (r : HostAnswer) : (s.answer r).sr = s.sr := rfl
@[simp] theorem State.answer_bitcnt (r : HostAnswer) : (s.answer r).bitcnt = s.bitcnt := rfl
@[simp] theorem State.answer_idx (r : HostAnswer) : (s.answer r).idx = s.idx := rfl
@[simp] theorem State.answer_col (r : HostAnswer) : (s.answer r).col = s.col := rfl
@[simp] theorem State.answer_sptr (r : HostAnswer) : (s.answer r).sptr = s.sptr := rfl
@[simp] theorem State.answer_pending (r : HostAnswer) : (s.answer r).pending = s.pending := rfl
@[simp] theorem State.answer_hung (r : HostAnswer) : (s.answer r).hung = s.hung := rfl
@[simp] theorem State.answer_trace (r : HostAnswer) : (s.answer r).trace = s.trace := rfl
@[simp] theorem State.answer_cmdQueue (r : HostAnswer) : (s.answer r).cmdQueue = s.cmdQueue := rfl
@[simp] theorem State.answer_carrier (r : HostAnswer) : (s.answer r).carrier = s.carrier := rfl
@[simp] theorem State.answer_waiting (r : HostAnswer) : (s.answer r).waiting = s.waiting := rfl
@[simp] theorem State.answer_faults (r : HostAnswer) : (s.answer r).faults = s.faults := rfl
@[simp] theorem State.answer_hostLog (r : HostAnswer) : (s.answer r).hostLog = s.hostLog ++ [r] := rfl
@[simp] theorem State.answer_riseOrder (r : HostAnswer) : (s.answer r).riseOrder = s.riseOrder := rfl
@[simp] theorem State.answer_inp (r : HostAnswer) : (s.answer r).inp = s.inp := rfl
@[simp] theorem State.answer_env (r : HostAnswer) : (s.answer r).env = s.env := rfl
@[simp] theorem State.answer_tick (r : HostAnswer) : (s.answer r).tick = s.tick := rfl
@[simp] theorem State.answer_cfg (r : HostAnswer) : (s.answer r).cfg = s.cfg := rfl

/-! State.raise -/

@[simp] theorem State.raise_sdaDrv (e : HwError) : (s.raise e).sdaDrv = s.sdaDrv := rfl
@[simp] theorem State.raise_sclDrv (e : HwError) : (s.raise e).sclDrv = s.sclDrv := rfl
@[simp] theorem State.raise_session (e : HwError) : (s.raise e).session = s.session := rfl
@[simp] theorem State.raise_busy (e : HwError) : (s.raise e).busy = false := rfl
@[simp] theorem State.raise_errIll (e : HwError) : (s.raise e).errIll = (s.errIll || e == .illegalCommand) := rfl
@[simp] theorem State.raise_errOor (e : HwError) : (s.raise e).errOor = (s.errOor || e == .outOfRangeCharacter) := rfl
@[simp] theorem State.raise_errTimeout (e : HwError) : (s.raise e).errTimeout = (s.errTimeout || e == .busTimeout) := rfl
@[simp] theorem State.raise_cmdr (e : HwError) : (s.raise e).cmdr = s.cmdr := rfl
@[simp] theorem State.raise_sr (e : HwError) : (s.raise e).sr = s.sr := rfl
@[simp] theorem State.raise_bitcnt (e : HwError) : (s.raise e).bitcnt = s.bitcnt := rfl
@[simp] theorem State.raise_idx (e : HwError) : (s.raise e).idx = s.idx := rfl
@[simp] theorem State.raise_col (e : HwError) : (s.raise e).col = s.col := rfl
@[simp] theorem State.raise_sptr (e : HwError) : (s.raise e).sptr = s.sptr := rfl
@[simp] theorem State.raise_pending (e : HwError) : (s.raise e).pending = [] := rfl
@[simp] theorem State.raise_hung (e : HwError) : (s.raise e).hung = s.hung := rfl
@[simp] theorem State.raise_trace (e : HwError) : (s.raise e).trace = s.trace := rfl
@[simp] theorem State.raise_cmdQueue (e : HwError) : (s.raise e).cmdQueue = s.cmdQueue := rfl
@[simp] theorem State.raise_carrier (e : HwError) : (s.raise e).carrier = none := rfl
@[simp] theorem State.raise_waiting (e : HwError) : (s.raise e).waiting = s.waiting := rfl
@[simp] theorem State.raise_faults (e : HwError) : (s.raise e).faults = s.faults := rfl
@[simp] theorem State.raise_hostLog (e : HwError) : (s.raise e).hostLog = s.hostLog ++ s.completion := rfl
@[simp] theorem State.raise_riseOrder (e : HwError) : (s.raise e).riseOrder = s.riseOrder := rfl
@[simp] theorem State.raise_inp (e : HwError) : (s.raise e).inp = s.inp := rfl
@[simp] theorem State.raise_env (e : HwError) : (s.raise e).env = s.env := rfl
@[simp] theorem State.raise_tick (e : HwError) : (s.raise e).tick = s.tick := rfl
@[simp] theorem State.raise_cfg (e : HwError) : (s.raise e).cfg = s.cfg := rfl

/-! State.emit -/

@[simp] theorem State.emit_session (a : LineAction) : (s.emit a).session = s.session := rfl
@[simp] theorem State.emit_busy (a : LineAction) : (s.emit a).busy = s.busy := rfl
@[simp] theorem State.emit_errIll (a : LineAction) : (s.emit a).errIll = s.errIll := rfl
@[simp] theorem State.emit_errOor (a : LineAction) : (s.emit a).errOor = s.errOor := rfl
@[simp] theorem State.emit_errTimeout (a : LineAction) : (s.emit a).errTimeout = s.errTimeout := rfl
@[simp] theorem State.emit_cmdr (a : LineAction) : (s.emit a).cmdr = s.cmdr := rfl
@[simp] theorem State.emit_sr (a : LineAction) : (s.emit a).sr = s.sr := rfl
@[simp] theorem State.emit_bitcnt (a : LineAction) : (s.emit a).bitcnt = s.bitcnt := rfl
@[simp] theorem State.emit_idx (a : LineAction) : (s.emit a).idx = s.idx := rfl
@[simp] theorem State.emit_col (a : LineAction) : (s.emit a).col = s.col := rfl
@[simp] theorem State.emit_sptr (a : LineAction) : (s.emit a).sptr = s.sptr := rfl
@[simp] theorem State.emit_pending (a : LineAction) : (s.emit a).pending = s.pending := rfl
@[simp] theorem State.emit_hung (a : LineAction) : (s.emit a).hung = s.hung := rfl
@[simp] theorem State.emit_trace (a : LineAction) : (s.emit a).trace = s.trace ++ [a] := rfl
@[simp] theorem State.emit_cmdQueue (a : LineAction) : (s.emit a).cmdQueue = s.cmdQueue := rfl
@[simp] theorem State.emit_carrier (a : LineAction) : (s.emit a).carrier = s.carrier := rfl
@[simp] theorem State.emit_waiting (a : LineAction) : (s.emit a).waiting = s.waiting := rfl
@[simp] theorem State.emit_faults (a : LineAction) : (s.emit a).faults = s.faults := rfl
@[simp] theorem State.emit_hostLog (a : LineAction) : (s.emit a).hostLog = s.hostLog := rfl
@[simp] theorem State.emit_riseOrder (a : LineAction) : (s.emit a).riseOrder = s.riseOrder := rfl
@[simp] theorem State.emit_inp (a : LineAction) : (s.emit a).inp = s.inp := rfl
@[simp] theorem State.emit_env (a : LineAction) : (s.emit a).env = s.env := rfl
@[simp] theorem State.emit_tick (a : LineAction) : (s.emit a).tick = s.tick := rfl
@[simp] theorem State.emit_cfg (a : LineAction) : (s.emit a).cfg = s.cfg := rfl

/-! State.update -/

@[simp] theorem State.update_sdaDrv (u : Update) : (s.update u).sdaDrv = s.sdaDrv := rfl
@[simp] theorem State.update_sclDrv (u : Update) : (s.update u).sclDrv = s.sclDrv := rfl
@[simp] theorem State.update_session (u : Update) : (s.update u).session = u.session.getD s.session := rfl
@[simp] theorem State.update_busy (u : Update) : (s.update u).busy = s.busy := rfl
@[simp] theorem State.update_errIll (u : Update) : (s.update u).errIll = s.errIll := rfl
@[simp] theorem State.update_errOor (u : Update) : (s.update u).errOor = s.errOor := rfl
@[simp] theorem State.update_errTimeout (u : Update) : (s.update u).errTimeout = s.errTimeout := rfl
@[simp] theorem State.update_cmdr (u : Update) : (s.update u).cmdr = s.cmdr := rfl
@[simp] theorem State.update_sr (u : Update) : (s.update u).sr = u.sr.getD s.sr := rfl
@[simp] theorem State.update_bitcnt (u : Update) : (s.update u).bitcnt = u.bitcnt.getD s.bitcnt := rfl
@[simp] theorem State.update_idx (u : Update) : (s.update u).idx = u.idx.getD s.idx := rfl
@[simp] theorem State.update_col (u : Update) : (s.update u).col = u.col.getD s.col := rfl
@[simp] theorem State.update_sptr (u : Update) : (s.update u).sptr = s.sptr := rfl
@[simp] theorem State.update_pending (u : Update) : (s.update u).pending = s.pending := rfl
@[simp] theorem State.update_hung (u : Update) : (s.update u).hung = s.hung := rfl
@[simp] theorem State.update_trace (u : Update) : (s.update u).trace = s.trace := rfl
@[simp] theorem State.update_cmdQueue (u : Update) : (s.update u).cmdQueue = s.cmdQueue := rfl
@[simp] theorem State.update_carrier (u : Update) : (s.update u).carrier = s.carrier := rfl
@[simp] theorem State.update_waiting (u : Update) : (s.update u).waiting = s.waiting := rfl
@[simp] theorem State.update_faults (u : Update) : (s.update u).faults = s.faults := rfl
@[simp] theorem State.update_hostLog (u : Update) : (s.update u).hostLog = s.hostLog := rfl
@[simp] theorem State.update_riseOrder (u : Update) : (s.update u).riseOrder = s.riseOrder := rfl
@[simp] theorem State.update_inp (u : Update) : (s.update u).inp = s.inp := rfl
@[simp] theorem State.update_env (u : Update) : (s.update u).env = s.env := rfl
@[simp] theorem State.update_tick (u : Update) : (s.update u).tick = s.tick := rfl
@[simp] theorem State.update_cfg (u : Update) : (s.update u).cfg = s.cfg := rfl

/-! State.setSession -/

@[simp] theorem State.setSession_sdaDrv (b : Bool) : (s.setSession b).sdaDrv = s.sdaDrv := rfl
@[simp] theorem State.setSession_sclDrv (b : Bool) : (s.setSession b).sclDrv = s.sclDrv := rfl
@[simp] theorem State.setSession_session (b : Bool) : (s.setSession b).session = b := rfl
@[simp] theorem State.setSession_busy (b : Bool) : (s.setSession b).busy = s.busy := rfl
@[simp] theorem State.setSession_errIll (b : Bool) : (s.setSession b).errIll = s.errIll := rfl
@[simp] theorem State.setSession_errOor (b : Bool) : (s.setSession b).errOor = s.errOor := rfl
@[simp] theorem State.setSession_errTimeout (b : Bool) : (s.setSession b).errTimeout = s.errTimeout := rfl
@[simp] theorem State.setSession_cmdr (b : Bool) : (s.setSession b).cmdr = s.cmdr := rfl
@[simp] theorem State.setSession_sr (b : Bool) : (s.setSession b).sr = s.sr := rfl
@[simp] theorem State.setSession_bitcnt (b : Bool) : (s.setSession b).bitcnt = s.bitcnt := rfl
@[simp] theorem State.setSession_idx (b : Bool) : (s.setSession b).idx = s.idx := rfl
@[simp] theorem State.setSession_col (b : Bool) : (s.setSession b).col = s.col := rfl
@[simp] theorem State.setSession_sptr (b : Bool) : (s.setSession b).sptr = s.sptr := rfl
@[simp] theorem State.setSession_pending (b : Bool) : (s.setSession b).pending = s.pending := rfl
@[simp] theorem State.setSession_hung (b : Bool) : (s.setSession b).hung = s.hung := rfl
@[simp] theorem State.setSession_trace (b : Bool) : (s.setSession b).trace = s.trace := rfl
@[simp] theorem State.setSession_cmdQueue (b : Bool) : (s.setSession b).cmdQueue = s.cmdQueue := rfl
@[simp] theorem State.setSession_carrier (b : Bool) : (s.setSession b).carrier = s.carrier := rfl
@[simp] theorem State.setSession_waiting (b : Bool) : (s.setSession b).waiting = s.waiting := rfl
@[simp] theorem State.setSession_faults (b : Bool) : (s.setSession b).faults = s.faults := rfl
@[simp] theorem State.setSession_hostLog (b : Bool) : (s.setSession b).hostLog = s.hostLog := rfl
@[simp] theorem State.setSession_riseOrder (b : Bool) : (s.setSession b).riseOrder = s.riseOrder := rfl
@[simp] theorem State.setSession_inp (b : Bool) : (s.setSession b).inp = s.inp := rfl
@[simp] theorem State.setSession_env (b : Bool) : (s.setSession b).env = s.env := rfl
@[simp] theorem State.setSession_tick (b : Bool) : (s.setSession b).tick = s.tick := rfl
@[simp] theorem State.setSession_cfg (b : Bool) : (s.setSession b).cfg = s.cfg := rfl

/-! State.finish -/

@[simp] theorem State.finish_sdaDrv : s.finish.sdaDrv = s.sdaDrv := rfl
@[simp] theorem State.finish_sclDrv : s.finish.sclDrv = s.sclDrv := rfl
@[simp] theorem State.finish_session : s.finish.session = s.session := rfl
@[simp] theorem State.finish_busy : s.finish.busy = if s.pending = [] then false else s.busy := rfl
@[simp] theorem State.finish_errIll : s.finish.errIll = s.errIll := rfl
@[simp] theorem State.finish_errOor : s.finish.errOor = s.errOor := rfl
@[simp] theorem State.finish_errTimeout : s.finish.errTimeout = s.errTimeout := rfl
@[simp] theorem State.finish_cmdr : s.finish.cmdr = s.cmdr := rfl
@[simp] theorem State.finish_sr : s.finish.sr = s.sr := rfl
@[simp] theorem State.finish_bitcnt : s.finish.bitcnt = s.bitcnt := rfl
@[simp] theorem State.finish_idx : s.finish.idx = s.idx := rfl
@[simp] theorem State.finish_col : s.finish.col = s.col := rfl
@[simp] theorem State.finish_sptr : s.finish.sptr = s.sptr := rfl
@[simp] theorem State.finish_pending : s.finish.pending = s.pending := rfl
@[simp] theorem State.finish_hung : s.finish.hung = s.hung := rfl
@[simp] theorem State.finish_trace : s.finish.trace = s.trace := rfl
@[simp] theorem State.finish_cmdQueue : s.finish.cmdQueue = s.cmdQueue := rfl
@[simp] theorem State.finish_carrier : s.finish.carrier = if s.pending = [] then none else s.carrier := rfl
@[simp] theorem State.finish_waiting : s.finish.waiting = s.waiting := rfl
@[simp] theorem State.finish_faults : s.finish.faults = s.faults := rfl
@[simp] theorem State.finish_hostLog : s.finish.hostLog = if s.pending = [] then s.hostLog ++ s.completion else s.hostLog := rfl
@[simp] theorem State.finish_riseOrder : s.finish.riseOrder = s.riseOrder := rfl
@[simp] theorem State.finish_inp : s.finish.inp = s.inp := rfl
@[simp] theorem State.finish_env : s.finish.env = s.env := rfl
@[simp] theorem State.finish_tick : s.finish.tick = s.tick := rfl
@[simp] theorem State.finish_cfg : s.finish.cfg = s.cfg := rfl

/-! State.hang -/

@[simp] theorem State.hang_sdaDrv : s.hang.sdaDrv = s.sdaDrv := rfl
@[simp] theorem State.hang_sclDrv : s.hang.sclDrv = s.sclDrv := rfl
@[simp] theorem State.hang_session : s.hang.session = s.session := rfl
@[simp] theorem State.hang_busy : s.hang.busy = s.busy := rfl
@[simp] theorem State.hang_errIll : s.hang.errIll = s.errIll := rfl
@[simp] theorem State.hang_errOor : s.hang.errOor = s.errOor := rfl
@[simp] theorem State.hang_errTimeout : s.hang.errTimeout = s.errTimeout := rfl
@[simp] theorem State.hang_cmdr : s.hang.cmdr = s.cmdr := rfl
@[simp] theorem State.hang_sr : s.hang.sr = s.sr := rfl
@[simp] theorem State.hang_bitcnt : s.hang.bitcnt = s.bitcnt := rfl
@[simp] theorem State.hang_idx : s.hang.idx = s.idx := rfl
@[simp] theorem State.hang_col : s.hang.col = s.col := rfl
@[simp] theorem State.hang_sptr : s.hang.sptr = s.sptr := rfl
@[simp] theorem State.hang_pending : s.hang.pending = s.pending := rfl
@[simp] theorem State.hang_hung : s.hang.hung = true := rfl
@[simp] theorem State.hang_trace : s.hang.trace = s.trace := rfl
@[simp] theorem State.hang_cmdQueue : s.hang.cmdQueue = s.cmdQueue := rfl
@[simp] theorem State.hang_carrier : s.hang.carrier = s.carrier := rfl
@[simp] theorem State.hang_waiting : s.hang.waiting = s.waiting := rfl
@[simp] theorem State.hang_faults : s.hang.faults = s.faults := rfl
@[simp] theorem State.hang_hostLog : s.hang.hostLog = s.hostLog := rfl
@[simp] theorem State.hang_riseOrder : s.hang.riseOrder = s.riseOrder := rfl
@[simp] theorem State.hang_inp : s.hang.inp = s.inp := rfl
@[simp] theorem State.hang_env : s.hang.env = s.env := rfl
@[simp] theorem State.hang_tick : s.hang.tick = s.tick := rfl
@[simp] theorem State.hang_cfg : s.hang.cfg = s.cfg := rfl

/-! State.clearErrors -/

@[simp] theorem State.clearErrors_sdaDrv (w : Word) : (s.clearErrors w).sdaDrv = s.sdaDrv := rfl
@[simp] theorem State.clearErrors_sclDrv (w : Word) : (s.clearErrors w).sclDrv = s.sclDrv := rfl
@[simp] theorem State.clearErrors_session (w : Word) : (s.clearErrors w).session = s.session := rfl
@[simp] theorem State.clearErrors_busy (w : Word) : (s.clearErrors w).busy = s.busy := rfl
@[simp] theorem State.clearErrors_errIll (w : Word) : (s.clearErrors w).errIll = (s.errIll && !w.getLsbD 3) := rfl
@[simp] theorem State.clearErrors_errOor (w : Word) : (s.clearErrors w).errOor = (s.errOor && !w.getLsbD 4) := rfl
@[simp] theorem State.clearErrors_errTimeout (w : Word) : (s.clearErrors w).errTimeout = (s.errTimeout && !w.getLsbD 5) := rfl
@[simp] theorem State.clearErrors_cmdr (w : Word) : (s.clearErrors w).cmdr = s.cmdr := rfl
@[simp] theorem State.clearErrors_sr (w : Word) : (s.clearErrors w).sr = s.sr := rfl
@[simp] theorem State.clearErrors_bitcnt (w : Word) : (s.clearErrors w).bitcnt = s.bitcnt := rfl
@[simp] theorem State.clearErrors_idx (w : Word) : (s.clearErrors w).idx = s.idx := rfl
@[simp] theorem State.clearErrors_col (w : Word) : (s.clearErrors w).col = s.col := rfl
@[simp] theorem State.clearErrors_sptr (w : Word) : (s.clearErrors w).sptr = s.sptr := rfl
@[simp] theorem State.clearErrors_pending (w : Word) : (s.clearErrors w).pending = s.pending := rfl
@[simp] theorem State.clearErrors_hung (w : Word) : (s.clearErrors w).hung = s.hung := rfl
@[simp] theorem State.clearErrors_trace (w : Word) : (s.clearErrors w).trace = s.trace := rfl
@[simp] theorem State.clearErrors_cmdQueue (w : Word) : (s.clearErrors w).cmdQueue = s.cmdQueue := rfl
@[simp] theorem State.clearErrors_carrier (w : Word) : (s.clearErrors w).carrier = s.carrier := rfl
@[simp] theorem State.clearErrors_waiting (w : Word) : (s.clearErrors w).waiting = s.waiting := rfl
@[simp] theorem State.clearErrors_faults (w : Word) : (s.clearErrors w).faults = s.faults := rfl
@[simp] theorem State.clearErrors_hostLog (w : Word) : (s.clearErrors w).hostLog = s.hostLog := rfl
@[simp] theorem State.clearErrors_riseOrder (w : Word) : (s.clearErrors w).riseOrder = s.riseOrder := rfl
@[simp] theorem State.clearErrors_inp (w : Word) : (s.clearErrors w).inp = s.inp := rfl
@[simp] theorem State.clearErrors_env (w : Word) : (s.clearErrors w).env = s.env := rfl
@[simp] theorem State.clearErrors_tick (w : Word) : (s.clearErrors w).tick = s.tick := rfl
@[simp] theorem State.clearErrors_cfg (w : Word) : (s.clearErrors w).cfg = s.cfg := rfl

/-! State.carry -/

@[simp] theorem State.carry_sdaDrv (c : Nat) : (s.carry c).sdaDrv = s.sdaDrv := rfl
@[simp] theorem State.carry_sclDrv (c : Nat) : (s.carry c).sclDrv = s.sclDrv := rfl
@[simp] theorem State.carry_session (c : Nat) : (s.carry c).session = s.session := rfl
@[simp] theorem State.carry_busy (c : Nat) : (s.carry c).busy = s.busy := rfl
@[simp] theorem State.carry_errIll (c : Nat) : (s.carry c).errIll = s.errIll := rfl
@[simp] theorem State.carry_errOor (c : Nat) : (s.carry c).errOor = s.errOor := rfl
@[simp] theorem State.carry_errTimeout (c : Nat) : (s.carry c).errTimeout = s.errTimeout := rfl
@[simp] theorem State.carry_cmdr (c : Nat) : (s.carry c).cmdr = s.cmdr := rfl
@[simp] theorem State.carry_sr (c : Nat) : (s.carry c).sr = s.sr := rfl
@[simp] theorem State.carry_bitcnt (c : Nat) : (s.carry c).bitcnt = s.bitcnt := rfl
@[simp] theorem State.carry_idx (c : Nat) : (s.carry c).idx = s.idx := rfl
@[simp] theorem State.carry_col (c : Nat) : (s.carry c).col = s.col := rfl
@[simp] theorem State.carry_sptr (c : Nat) : (s.carry c).sptr = s.sptr := rfl
@[simp] theorem State.carry_pending (c : Nat) : (s.carry c).pending = s.pending := rfl
@[simp] theorem State.carry_hung (c : Nat) : (s.carry c).hung = s.hung := rfl
@[simp] theorem State.carry_trace (c : Nat) : (s.carry c).trace = s.trace := rfl
@[simp] theorem State.carry_cmdQueue (c : Nat) : (s.carry c).cmdQueue = s.cmdQueue := rfl
@[simp] theorem State.carry_carrier (c : Nat) : (s.carry c).carrier = some c := rfl
@[simp] theorem State.carry_waiting (c : Nat) : (s.carry c).waiting = s.waiting := rfl
@[simp] theorem State.carry_faults (c : Nat) : (s.carry c).faults = s.faults := rfl
@[simp] theorem State.carry_hostLog (c : Nat) : (s.carry c).hostLog = s.hostLog := rfl
@[simp] theorem State.carry_riseOrder (c : Nat) : (s.carry c).riseOrder = s.riseOrder := rfl
@[simp] theorem State.carry_inp (c : Nat) : (s.carry c).inp = s.inp := rfl
@[simp] theorem State.carry_env (c : Nat) : (s.carry c).env = s.env := rfl
@[simp] theorem State.carry_tick (c : Nat) : (s.carry c).tick = s.tick := rfl
@[simp] theorem State.carry_cfg (c : Nat) : (s.carry c).cfg = s.cfg := rfl

/-! State.takeWrite -/

@[simp] theorem State.takeWrite_sdaDrv (p : HeldWrite) (rest : List HeldWrite) : (s.takeWrite p rest).sdaDrv = s.sdaDrv := rfl
@[simp] theorem State.takeWrite_sclDrv (p : HeldWrite) (rest : List HeldWrite) : (s.takeWrite p rest).sclDrv = s.sclDrv := rfl
@[simp] theorem State.takeWrite_session (p : HeldWrite) (rest : List HeldWrite) : (s.takeWrite p rest).session = s.session := rfl
@[simp] theorem State.takeWrite_busy (p : HeldWrite) (rest : List HeldWrite) : (s.takeWrite p rest).busy = s.busy := rfl
@[simp] theorem State.takeWrite_errIll (p : HeldWrite) (rest : List HeldWrite) : (s.takeWrite p rest).errIll = s.errIll := rfl
@[simp] theorem State.takeWrite_errOor (p : HeldWrite) (rest : List HeldWrite) : (s.takeWrite p rest).errOor = s.errOor := rfl
@[simp] theorem State.takeWrite_errTimeout (p : HeldWrite) (rest : List HeldWrite) : (s.takeWrite p rest).errTimeout = s.errTimeout := rfl
@[simp] theorem State.takeWrite_cmdr (p : HeldWrite) (rest : List HeldWrite) : (s.takeWrite p rest).cmdr = s.cmdr := rfl
@[simp] theorem State.takeWrite_sr (p : HeldWrite) (rest : List HeldWrite) : (s.takeWrite p rest).sr = s.sr := rfl
@[simp] theorem State.takeWrite_bitcnt (p : HeldWrite) (rest : List HeldWrite) : (s.takeWrite p rest).bitcnt = s.bitcnt := rfl
@[simp] theorem State.takeWrite_idx (p : HeldWrite) (rest : List HeldWrite) : (s.takeWrite p rest).idx = s.idx := rfl
@[simp] theorem State.takeWrite_col (p : HeldWrite) (rest : List HeldWrite) : (s.takeWrite p rest).col = s.col := rfl
@[simp] theorem State.takeWrite_sptr (p : HeldWrite) (rest : List HeldWrite) : (s.takeWrite p rest).sptr = s.sptr := rfl
@[simp] theorem State.takeWrite_pending (p : HeldWrite) (rest : List HeldWrite) : (s.takeWrite p rest).pending = s.pending := rfl
@[simp] theorem State.takeWrite_hung (p : HeldWrite) (rest : List HeldWrite) : (s.takeWrite p rest).hung = s.hung := rfl
@[simp] theorem State.takeWrite_trace (p : HeldWrite) (rest : List HeldWrite) : (s.takeWrite p rest).trace = s.trace := rfl
@[simp] theorem State.takeWrite_cmdQueue (p : HeldWrite) (rest : List HeldWrite) : (s.takeWrite p rest).cmdQueue = rest := rfl
@[simp] theorem State.takeWrite_carrier (p : HeldWrite) (rest : List HeldWrite) : (s.takeWrite p rest).carrier = some p.ctx := rfl
@[simp] theorem State.takeWrite_waiting (p : HeldWrite) (rest : List HeldWrite) : (s.takeWrite p rest).waiting = s.waiting := rfl
@[simp] theorem State.takeWrite_faults (p : HeldWrite) (rest : List HeldWrite) : (s.takeWrite p rest).faults = s.faults := rfl
@[simp] theorem State.takeWrite_hostLog (p : HeldWrite) (rest : List HeldWrite) : (s.takeWrite p rest).hostLog = s.hostLog := rfl
@[simp] theorem State.takeWrite_riseOrder (p : HeldWrite) (rest : List HeldWrite) : (s.takeWrite p rest).riseOrder = s.riseOrder := rfl
@[simp] theorem State.takeWrite_inp (p : HeldWrite) (rest : List HeldWrite) : (s.takeWrite p rest).inp = s.inp := rfl
@[simp] theorem State.takeWrite_env (p : HeldWrite) (rest : List HeldWrite) : (s.takeWrite p rest).env = s.env := rfl
@[simp] theorem State.takeWrite_tick (p : HeldWrite) (rest : List HeldWrite) : (s.takeWrite p rest).tick = s.tick := rfl
@[simp] theorem State.takeWrite_cfg (p : HeldWrite) (rest : List HeldWrite) : (s.takeWrite p rest).cfg = s.cfg := rfl

/-! State.queueWrite -/

@[simp] theorem State.queueWrite_sdaDrv (p : HeldWrite) : (s.queueWrite p).sdaDrv = s.sdaDrv := rfl
@[simp] theorem State.queueWrite_sclDrv (p : HeldWrite) : (s.queueWrite p).sclDrv = s.sclDrv := rfl
@[simp] theorem State.queueWrite_session (p : HeldWrite) : (s.queueWrite p).session = s.session := rfl
@[simp] theorem State.queueWrite_busy (p : HeldWrite) : (s.queueWrite p).busy = s.busy := rfl
@[simp] theorem State.queueWrite_errIll (p : HeldWrite) : (s.queueWrite p).errIll = s.errIll := rfl
@[simp] theorem State.queueWrite_errOor (p : HeldWrite) : (s.queueWrite p).errOor = s.errOor := rfl
@[simp] theorem State.queueWrite_errTimeout (p : HeldWrite) : (s.queueWrite p).errTimeout = s.errTimeout := rfl
@[simp] theorem State.queueWrite_cmdr (p : HeldWrite) : (s.queueWrite p).cmdr = s.cmdr := rfl
@[simp] theorem State.queueWrite_sr (p : HeldWrite) : (s.queueWrite p).sr = s.sr := rfl
@[simp] theorem State.queueWrite_bitcnt (p : HeldWrite) : (s.queueWrite p).bitcnt = s.bitcnt := rfl
@[simp] theorem State.queueWrite_idx (p : HeldWrite) : (s.queueWrite p).idx = s.idx := rfl
@[simp] theorem State.queueWrite_col (p : HeldWrite) : (s.queueWrite p).col = s.col := rfl
@[simp] theorem State.queueWrite_sptr (p : HeldWrite) : (s.queueWrite p).sptr = s.sptr := rfl
@[simp] theorem State.queueWrite_pending (p : HeldWrite) : (s.queueWrite p).pending = s.pending := rfl
@[simp] theorem State.queueWrite_hung (p : HeldWrite) : (s.queueWrite p).hung = s.hung := rfl
@[simp] theorem State.queueWrite_trace (p : HeldWrite) : (s.queueWrite p).trace = s.trace := rfl
@[simp] theorem State.queueWrite_cmdQueue (p : HeldWrite) : (s.queueWrite p).cmdQueue = s.cmdQueue ++ [p] := rfl
@[simp] theorem State.queueWrite_carrier (p : HeldWrite) : (s.queueWrite p).carrier = s.carrier := rfl
@[simp] theorem State.queueWrite_waiting (p : HeldWrite) : (s.queueWrite p).waiting = s.waiting := rfl
@[simp] theorem State.queueWrite_faults (p : HeldWrite) : (s.queueWrite p).faults = s.faults := rfl
@[simp] theorem State.queueWrite_hostLog (p : HeldWrite) : (s.queueWrite p).hostLog = s.hostLog := rfl
@[simp] theorem State.queueWrite_riseOrder (p : HeldWrite) : (s.queueWrite p).riseOrder = s.riseOrder := rfl
@[simp] theorem State.queueWrite_inp (p : HeldWrite) : (s.queueWrite p).inp = s.inp := rfl
@[simp] theorem State.queueWrite_env (p : HeldWrite) : (s.queueWrite p).env = s.env := rfl
@[simp] theorem State.queueWrite_tick (p : HeldWrite) : (s.queueWrite p).tick = s.tick := rfl
@[simp] theorem State.queueWrite_cfg (p : HeldWrite) : (s.queueWrite p).cfg = s.cfg := rfl

/-! State.hold -/

@[simp] theorem State.hold_sdaDrv (a : HostAccess) : (s.hold a).sdaDrv = s.sdaDrv := rfl
@[simp] theorem State.hold_sclDrv (a : HostAccess) : (s.hold a).sclDrv = s.sclDrv := rfl
@[simp] theorem State.hold_session (a : HostAccess) : (s.hold a).session = s.session := rfl
@[simp] theorem State.hold_busy (a : HostAccess) : (s.hold a).busy = s.busy := rfl
@[simp] theorem State.hold_errIll (a : HostAccess) : (s.hold a).errIll = s.errIll := rfl
@[simp] theorem State.hold_errOor (a : HostAccess) : (s.hold a).errOor = s.errOor := rfl
@[simp] theorem State.hold_errTimeout (a : HostAccess) : (s.hold a).errTimeout = s.errTimeout := rfl
@[simp] theorem State.hold_cmdr (a : HostAccess) : (s.hold a).cmdr = s.cmdr := rfl
@[simp] theorem State.hold_sr (a : HostAccess) : (s.hold a).sr = s.sr := rfl
@[simp] theorem State.hold_bitcnt (a : HostAccess) : (s.hold a).bitcnt = s.bitcnt := rfl
@[simp] theorem State.hold_idx (a : HostAccess) : (s.hold a).idx = s.idx := rfl
@[simp] theorem State.hold_col (a : HostAccess) : (s.hold a).col = s.col := rfl
@[simp] theorem State.hold_sptr (a : HostAccess) : (s.hold a).sptr = s.sptr := rfl
@[simp] theorem State.hold_pending (a : HostAccess) : (s.hold a).pending = s.pending := rfl
@[simp] theorem State.hold_hung (a : HostAccess) : (s.hold a).hung = s.hung := rfl
@[simp] theorem State.hold_trace (a : HostAccess) : (s.hold a).trace = s.trace := rfl
@[simp] theorem State.hold_cmdQueue (a : HostAccess) : (s.hold a).cmdQueue = s.cmdQueue := rfl
@[simp] theorem State.hold_carrier (a : HostAccess) : (s.hold a).carrier = s.carrier := rfl
@[simp] theorem State.hold_waiting (a : HostAccess) : (s.hold a).waiting = s.waiting ++ [a] := rfl
@[simp] theorem State.hold_faults (a : HostAccess) : (s.hold a).faults = s.faults := rfl
@[simp] theorem State.hold_hostLog (a : HostAccess) : (s.hold a).hostLog = s.hostLog := rfl
@[simp] theorem State.hold_riseOrder (a : HostAccess) : (s.hold a).riseOrder = s.riseOrder := rfl
@[simp] theorem State.hold_inp (a : HostAccess) : (s.hold a).inp = s.inp := rfl
@[simp] theorem State.hold_env (a : HostAccess) : (s.hold a).env = s.env := rfl
@[simp] theorem State.hold_tick (a : HostAccess) : (s.hold a).tick = s.tick := rfl
@[simp] theorem State.hold_cfg (a : HostAccess) : (s.hold a).cfg = s.cfg := rfl

/-! State.release -/

@[simp] theorem State.release_sdaDrv (a : HostAccess) : (s.release a).sdaDrv = s.sdaDrv := rfl
@[simp] theorem State.release_sclDrv (a : HostAccess) : (s.release a).sclDrv = s.sclDrv := rfl
@[simp] theorem State.release_session (a : HostAccess) : (s.release a).session = s.session := rfl
@[simp] theorem State.release_busy (a : HostAccess) : (s.release a).busy = s.busy := rfl
@[simp] theorem State.release_errIll (a : HostAccess) : (s.release a).errIll = s.errIll := rfl
@[simp] theorem State.release_errOor (a : HostAccess) : (s.release a).errOor = s.errOor := rfl
@[simp] theorem State.release_errTimeout (a : HostAccess) : (s.release a).errTimeout = s.errTimeout := rfl
@[simp] theorem State.release_cmdr (a : HostAccess) : (s.release a).cmdr = s.cmdr := rfl
@[simp] theorem State.release_sr (a : HostAccess) : (s.release a).sr = s.sr := rfl
@[simp] theorem State.release_bitcnt (a : HostAccess) : (s.release a).bitcnt = s.bitcnt := rfl
@[simp] theorem State.release_idx (a : HostAccess) : (s.release a).idx = s.idx := rfl
@[simp] theorem State.release_col (a : HostAccess) : (s.release a).col = s.col := rfl
@[simp] theorem State.release_sptr (a : HostAccess) : (s.release a).sptr = s.sptr := rfl
@[simp] theorem State.release_pending (a : HostAccess) : (s.release a).pending = s.pending := rfl
@[simp] theorem State.release_hung (a : HostAccess) : (s.release a).hung = s.hung := rfl
@[simp] theorem State.release_trace (a : HostAccess) : (s.release a).trace = s.trace := rfl
@[simp] theorem State.release_cmdQueue (a : HostAccess) : (s.release a).cmdQueue = s.cmdQueue := rfl
@[simp] theorem State.release_carrier (a : HostAccess) : (s.release a).carrier = s.carrier := rfl
@[simp] theorem State.release_waiting (a : HostAccess) : (s.release a).waiting = s.waiting.erase a := rfl
@[simp] theorem State.release_faults (a : HostAccess) : (s.release a).faults = s.faults := rfl
@[simp] theorem State.release_hostLog (a : HostAccess) : (s.release a).hostLog = s.hostLog := rfl
@[simp] theorem State.release_riseOrder (a : HostAccess) : (s.release a).riseOrder = s.riseOrder := rfl
@[simp] theorem State.release_inp (a : HostAccess) : (s.release a).inp = s.inp := rfl
@[simp] theorem State.release_env (a : HostAccess) : (s.release a).env = s.env := rfl
@[simp] theorem State.release_tick (a : HostAccess) : (s.release a).tick = s.tick := rfl
@[simp] theorem State.release_cfg (a : HostAccess) : (s.release a).cfg = s.cfg := rfl

/-! State.emit, the two lines -/

@[simp] theorem State.emit_sdaLow_sdaDrv : (s.emit .sdaLow).sdaDrv = .low := rfl
@[simp] theorem State.emit_sdaRel_sdaDrv : (s.emit .sdaRel).sdaDrv = .rel := rfl
@[simp] theorem State.emit_sclLow_sdaDrv : (s.emit .sclLow).sdaDrv = s.sdaDrv := rfl
@[simp] theorem State.emit_sclRel_sdaDrv : (s.emit .sclRel).sdaDrv = s.sdaDrv := rfl
@[simp] theorem State.emit_sdaLow_sclDrv : (s.emit .sdaLow).sclDrv = s.sclDrv := rfl
@[simp] theorem State.emit_sdaRel_sclDrv : (s.emit .sdaRel).sclDrv = s.sclDrv := rfl
@[simp] theorem State.emit_sclLow_sclDrv : (s.emit .sclLow).sclDrv = .low := rfl
@[simp] theorem State.emit_sclRel_sclDrv : (s.emit .sclRel).sclDrv = .rel := rfl

end Sys2Proof.Machine
end

