-- ==== Sys2Proof/Laws/Sequences.lean ====
section
/-!
SUPPORT. What the sequences of the two-wire master are: their line actions, and where they leave the lines.
-/

namespace Sys2Proof.Machine

/-- A micro-step that is a line action. -/
def Micro.isAct (m : Micro) : Bool := m.action.isSome

@[simp] theorem Micro.isAct_act (a : LineAction) (u : Update) : (Micro.act a u).isAct = true := rfl

@[simp] theorem actionsOf_nil : actionsOf [] = [] := rfl

@[simp] theorem actionsOf_act (a : LineAction) (u : Update) (ms : List Micro) :
    actionsOf (.act a u :: ms) = a :: actionsOf ms := rfl

@[simp] theorem actionsOf_append (xs ys : List Micro) : actionsOf (xs ++ ys) = actionsOf xs ++ actionsOf ys :=
  List.filterMap_append

@[simp] theorem actionsOf_nextChar (ms : List Micro) : actionsOf (.nextChar :: ms) = actionsOf ms := rfl

@[simp] theorem actionsOf_scan (a : StrAddr) (ms : List Micro) : actionsOf (.scan a :: ms) = actionsOf ms := rfl

theorem actionsOf_flatMap {α : Type} (f : α → List Micro) (xs : List α) :
    actionsOf (xs.flatMap f) = xs.flatMap fun x => actionsOf (f x) := by
  induction xs with
  | nil => rfl
  | cons x xs ih => simp [List.flatMap_cons, ih]

theorem length_actionsOf {ms : List Micro} (h : ∀ m ∈ ms, m.isAct = true) : (actionsOf ms).length = ms.length := by
  induction ms with
  | nil => rfl
  | cons m ms ih =>
    cases m with
    | act a u => simp [ih fun m hm => h m (List.mem_cons_of_mem _ hm)]
    | scan a => exact absurd (h _ List.mem_cons_self) Bool.false_ne_true
    | nextChar => exact absurd (h _ List.mem_cons_self) (by decide)
    | abort => exact absurd (h _ List.mem_cons_self) (by decide)

@[simp] theorem actionsOf_txStart : actionsOf txStart = startActions := rfl

@[simp] theorem actionsOf_txStop : actionsOf txStop = stopActions := rfl

/-- The micro-steps of a byte with SR's successive values written out. -/
theorem txByte_bits (u : Update) (v : Byte) :
    actionsOf (txByte u v) = actionsOf (txBits 8 v) ++ actionsOf txAck := by
  show LineAction.sdaLow :: actionsOf ((txBits 8 v ++ txAck).tail) = _
  simp [txBits]

theorem actionsOf_txBits_succ (n : Nat) (v : Byte) :
    actionsOf (txBits (n + 1) v) =
      [.sdaLow] ++ (if v.msb then [.sdaRel] else []) ++ [.sclRel, .sclLow] ++ actionsOf (txBits n (v <<< 1)) := by
  cases h : v.msb <;> simp [txBits, h]

/-- Bit `7 - k` of a byte is the top bit after `k` shifts (40_bus_transport R105). -/
theorem msb_shiftLeft (v : Byte) : ∀ k : Fin 8, (v <<< k.val).msb = v.getLsbD (7 - k.val) := by
  revert v; decide

/-- The line actions of `TxByte` are those of 40_bus_transport R105. -/
@[simp] theorem actionsOf_txByte (u : Update) (v : Byte) : actionsOf (txByte u v) = byteActions v := by
  rw [txByte_bits]
  have h := msb_shiftLeft v
  have h0 := h 0; have h1 := h 1; have h2 := h 2; have h3 := h 3
  have h4 := h 4; have h5 := h 5; have h6 := h 6; have h7 := h 7
  simp only [Fin.isValue, Fin.coe_ofNat_eq_mod, Nat.reduceMod, Nat.reduceSub, BitVec.shiftLeft_zero] at h0 h1 h2 h3 h4 h5 h6 h7
  simp only [actionsOf_txBits_succ, ← BitVec.shiftLeft_add, Nat.reduceAdd, h0, h1, h2, h3, h4, h5, h6, h7]
  simp [byteActions, bitActions, List.range_succ, txBits, txAck, List.append_assoc]

@[simp] theorem actionsOf_txBytes (bs : List (Update × Byte)) :
    actionsOf (txBytes bs) = (bs.map Prod.snd).flatMap byteActions := by
  simp [txBytes, actionsOf_flatMap, List.flatMap_map]

/-- The line actions of `Session(addr, bytes)` (00_scope R15). -/
@[simp] theorem actionsOf_session (addr : Byte) (bs : List (Update × Byte)) :
    actionsOf (session addr bs) = sessionActions addr (bs.map Prod.snd) := by
  simp [session, sessionActions]

@[simp] theorem plainBytes_snd (bs : List Byte) : (plainBytes bs).map Prod.snd = bs := by
  simp [plainBytes, Function.comp_def]

@[simp] theorem indexedBytes_snd : ∀ (k : Nat) (bs : List Byte), (indexedBytes k bs).map Prod.snd = bs
  | _, [] => rfl
  | k, b :: bs => by simp [indexedBytes, indexedBytes_snd (k + 1) bs]

@[simp] theorem charPayload_snd (p : Params) (d : Draws) (c : Byte) : (charPayload p d c).map Prod.snd = charBytes p d c := by
  simp [charPayload, charBytes, glyph, Function.comp_def]

/-! Every micro-step of a sequence is a line action. -/

theorem txBits_isAct : ∀ (n : Nat) (v : Byte), ∀ m ∈ txBits n v, m.isAct = true
  | 0, _, m, hm => by simp [txBits] at hm
  | n + 1, v, m, hm => by
    have ih := txBits_isAct n (v <<< 1) m
    cases h : v.msb <;> simp [txBits, h] at hm
    · rcases hm with rfl | rfl | rfl | hm <;> first | rfl | exact ih hm
    · rcases hm with rfl | rfl | rfl | rfl | hm <;> first | rfl | exact ih hm

theorem txAck_isAct : ∀ m ∈ txAck, m.isAct = true := by decide

theorem txStart_isAct : ∀ m ∈ txStart, m.isAct = true := by decide

theorem txStop_isAct : ∀ m ∈ txStop, m.isAct = true := by decide

theorem txByte_isAct (u : Update) (v : Byte) : ∀ m ∈ txByte u v, m.isAct = true := by
  intro m hm
  rcases List.mem_cons.mp hm with rfl | hm
  · rfl
  · rcases List.mem_append.mp (List.mem_of_mem_tail hm) with h | h
    · exact txBits_isAct 8 v m h
    · exact txAck_isAct m h

theorem txBytes_isAct (bs : List (Update × Byte)) : ∀ m ∈ txBytes bs, m.isAct = true := by
  intro m hm
  obtain ⟨b, -, hb⟩ := List.mem_flatMap.mp hm
  exact txByte_isAct _ _ m hb

theorem session_isAct (addr : Byte) (bs : List (Update × Byte)) : ∀ m ∈ session addr bs, m.isAct = true := by
  intro m hm
  simp only [session, List.mem_append] at hm
  rcases hm with ((h | h) | h) | h
  · exact txStart_isAct m h
  · exact txByte_isAct _ _ m h
  · exact txBytes_isAct _ m h
  · exact txStop_isAct m h

/-! SESSION is written only where the spec says. -/

theorem txBits_shaped : ∀ (n : Nat) (v : Byte), ∀ m ∈ txBits n v, m.shaped = true
  | 0, _, m, hm => by simp [txBits] at hm
  | n + 1, v, m, hm => by
    have ih := txBits_shaped n (v <<< 1) m
    cases h : v.msb <;> simp [txBits, h] at hm
    · rcases hm with rfl | rfl | rfl | hm <;> first | rfl | exact ih hm
    · rcases hm with rfl | rfl | rfl | rfl | hm <;> first | rfl | exact ih hm

theorem txAck_shaped : ∀ m ∈ txAck, m.shaped = true := by decide

theorem txByte_shaped {u : Update} (hu : u.session = none) (v : Byte) : ∀ m ∈ txByte u v, m.shaped = true := by
  intro m hm
  rcases List.mem_cons.mp hm with rfl | hm
  · simp [Micro.shaped, hu]
  · rcases List.mem_append.mp (List.mem_of_mem_tail hm) with h | h
    · exact txBits_shaped 8 v m h
    · exact txAck_shaped m h

theorem txBytes_shaped {bs : List (Update × Byte)} (hbs : ∀ b ∈ bs, b.1.session = none) :
    ∀ m ∈ txBytes bs, m.shaped = true := by
  intro m hm
  obtain ⟨b, hb, hm⟩ := List.mem_flatMap.mp hm
  exact txByte_shaped (hbs b hb) _ m hm

theorem session_shaped (addr : Byte) {bs : List (Update × Byte)} (hbs : ∀ b ∈ bs, b.1.session = none) :
    ∀ m ∈ session addr bs, m.shaped = true := by
  intro m hm
  simp only [session, List.mem_append] at hm
  rcases hm with ((h | h) | h) | h
  · revert h; revert m; decide
  · exact txByte_shaped rfl _ m h
  · exact txBytes_shaped hbs m h
  · revert h; revert m; decide

theorem plainBytes_noSession (bs : List Byte) : ∀ b ∈ plainBytes bs, b.1.session = none := by
  intro b hb
  obtain ⟨_, -, rfl⟩ := List.mem_map.mp hb
  rfl

theorem indexedBytes_noSession : ∀ (k : Nat) (bs : List Byte), ∀ b ∈ indexedBytes k bs, b.1.session = none
  | _, [], b, hb => by simp [indexedBytes] at hb
  | k, c :: bs, b, hb => by
    rcases List.mem_cons.mp hb with rfl | hb
    · rfl
    · exact indexedBytes_noSession (k + 1) bs b hb

theorem charPayload_noSession (p : Params) (d : Draws) (c : Byte) : ∀ b ∈ charPayload p d c, b.1.session = none := by
  intro b hb
  rcases List.mem_cons.mp hb with rfl | hb
  · rfl
  · obtain ⟨_, -, rfl⟩ := List.mem_map.mp hb
    rfl

/-! Where a sequence leaves the lines. -/

@[simp] theorem Lines.run_nil (l : Lines) : l.run [] = l := rfl

@[simp] theorem Lines.run_act (l : Lines) (a : LineAction) (u : Update) (ms : List Micro) :
    l.run (.act a u :: ms) = (l.after a u).run ms := rfl

theorem Lines.run_append : ∀ (xs ys : List Micro) (l : Lines), l.run (xs ++ ys) = (l.run xs).run ys
  | [], _, _ => rfl
  | .act a u :: xs, ys, l => Lines.run_append xs ys (l.after a u)
  | .scan _ :: xs, ys, l => Lines.run_append xs ys l
  | .nextChar :: xs, ys, l => Lines.run_append xs ys l
  | .abort :: xs, ys, l => Lines.run_append xs ys l

@[simp] theorem Lines.run_txStart (l : Lines) : l.run txStart = ⟨.low, .low, true⟩ := rfl

@[simp] theorem Lines.run_txStop (l : Lines) : l.run txStop = Lines.idle := rfl

/-- The data bits leave SESSION alone. -/
theorem Lines.run_txBits_session : ∀ (n : Nat) (v : Byte) (l : Lines), (l.run (txBits n v)).session = l.session
  | 0, _, _ => rfl
  | n + 1, v, l => by
    have ih := Lines.run_txBits_session n (v <<< 1)
    cases h : v.msb <;> simp [txBits, h, ih] <;> rfl

/-- After a byte SDA is released and SCL is low (40_bus_transport R105). -/
@[simp] theorem Lines.run_txByte {u : Update} (hu : u.session = none) (v : Byte) (l : Lines) :
    l.run (txByte u v) = ⟨.rel, .low, l.session⟩ := by
  have hcons : txBits 8 v = .act .sdaLow {} :: (txBits 8 v).tail := by
    simp [txBits]
  have htail : (txBits 8 v ++ txAck).tail = (txBits 8 v).tail ++ txAck := by
    rw [hcons]; rfl
  have hs := Lines.run_txBits_session 8 v (l.after .sdaLow { u with sr := some v, bitcnt := some 0 })
  have h0 : (l.after .sdaLow { u with sr := some v, bitcnt := some 0 }).after .sdaLow {} =
      l.after .sdaLow { u with sr := some v, bitcnt := some 0 } := rfl
  rw [hcons, Lines.run_act, h0] at hs
  show (l.after .sdaLow { u with sr := some v, bitcnt := some 0 }).run ((txBits 8 v ++ txAck).tail) = _
  rw [htail, Lines.run_append]
  have hl : (l.after .sdaLow { u with sr := some v, bitcnt := some 0 }).session = l.session := by
    simp [Lines.after, hu]
  rw [hl] at hs
  generalize hx : (l.after .sdaLow { u with sr := some v, bitcnt := some 0 }).run (txBits 8 v).tail = x at hs ⊢
  obtain ⟨a, b, c⟩ := x
  simp only at hs
  subst hs
  rfl

theorem Lines.run_txBytes : ∀ {bs : List (Update × Byte)}, (∀ b ∈ bs, b.1.session = none) →
    ∀ l : Lines, l.sda = .rel → l.scl = .low → l.run (txBytes bs) = l
  | [], _, _, _, _ => rfl
  | b :: bs, h, l, h1, h2 => by
    have hl : (⟨.rel, .low, l.session⟩ : Lines) = l := by cases l; simp_all
    have ih := Lines.run_txBytes (fun b hb => h b (List.mem_cons_of_mem _ hb)) l h1 h2
    show l.run (txByte b.1 b.2 ++ txBytes bs) = l
    rw [Lines.run_append, Lines.run_txByte (h b List.mem_cons_self), hl, ih]

/-- A session ends with both lines released and SESSION 0 (41_display_control R125). -/
@[simp] theorem Lines.run_session (addr : Byte) (bs : List (Update × Byte)) (l : Lines) :
    l.run (Machine.session addr bs) = Lines.idle := by
  simp only [Machine.session, Lines.run_append, Lines.run_txStop]

end Sys2Proof.Machine
end

