-- ==== Sys2Proof/Laws/Engine.lean ====
section
/-!
SUPPORT. What one step can do, said once, and what the engine does with a run of line actions when the peripheral answers.
-/

namespace Sys2Proof.Machine

/-! The inputs to come. -/

@[simp] theorem State.latch_inputAt (s : State) (k : Nat) : s.latch.inputAt k = s.inputAt (k + 1) := by
  unfold State.inputAt
  have h : s.latch.env[k]? = s.env[k + 1]? := by
    show s.env.tail[k]? = _
    cases s.env <;> simp
  rw [h]
  cases s.env[k + 1]? with
  | some i => rfl
  | none => simp [Nat.add_assoc, Nat.add_comm 1 k]

/-- What comes depends only on the script and the tick. -/
theorem State.inputAt_congr {s t : State} (he : t.env = s.env) (ht : t.tick = s.tick) (k : Nat) :
    t.inputAt k = s.inputAt k := by
  unfold State.inputAt
  rw [he, ht]

theorem State.Quiet.mono {s : State} {n m : Nat} (h : s.Quiet n) (hm : m ≤ n) : s.Quiet m :=
  fun k hk => h k (by omega)

/-- Quiet after the present step is taken. -/
theorem State.Quiet.shift {s t : State} {n : Nat} (h : s.Quiet (n + 1)) (hi : ∀ k, t.inputAt k = s.inputAt (k + 1)) : t.Quiet n := by
  intro k hk
  rw [hi]
  exact h (k + 1) (by omega)

theorem State.Quiet.congr {s t : State} {n : Nat} (h : s.Quiet n) (he : t.env = s.env) (ht : t.tick = s.tick) : t.Quiet n := by
  intro k hk
  rw [State.inputAt_congr he ht]
  exact h k hk

/-- Which access may proceed depends only on what waits and on the CMD writes that are not complete. -/
theorem State.ready_congr {s t : State} (hw : t.waiting = s.waiting) (hc : t.carrier = s.carrier) (hq : t.cmdQueue = s.cmdQueue) :
    t.ready = s.ready := by
  simp only [State.ready, State.inFlight, hw, hc, hq]

@[simp] theorem State.latch_ready (s : State) : s.latch.ready = s.ready := rfl

@[simp] theorem State.latch_blocked (s : State) (c : Nat) : s.latch.blocked c = s.blocked c := rfl

/-- Of its own context the access that may proceed is the oldest that waits, and its context has no CMD write that is not complete. -/
theorem State.ready_some {s : State} {a : HostAccess} (h : s.ready = some a) :
    s.inFlight a.ctx = false ∧ ∃ pre post, s.waiting = pre ++ a :: post ∧ ∀ b ∈ pre, s.inFlight b.ctx = true := by
  obtain ⟨h1, pre, post, h2, h3⟩ := List.find?_eq_some_iff_append.mp h
  exact ⟨by simpa using h1, pre, post, h2, fun b hb => by simpa using h3 b hb⟩

/-- Letting an access proceed takes it, and no other, from those that wait. -/
theorem State.release_waiting_of_ready {s : State} {a : HostAccess} (h : s.ready = some a) :
    ∃ pre post, s.waiting = pre ++ a :: post ∧ (∀ b ∈ pre, b.ctx ≠ a.ctx) ∧ (s.release a).waiting = pre ++ post := by
  obtain ⟨h0, pre, post, h1, h2⟩ := State.ready_some h
  have hne : ∀ b ∈ pre, b.ctx ≠ a.ctx := by
    intro b hb hc
    rw [← hc, h2 b hb] at h0
    cases h0
  refine ⟨pre, post, h1, hne, ?_⟩
  have hn : a ∉ pre := fun hm => hne a hm rfl
  show s.waiting.erase a = _
  rw [h1, List.erase_append_right _ hn, List.erase_cons_head]

theorem State.Calm.mono {s : State} {n m : Nat} (h : s.Calm n) (hm : m ≤ n) : s.Calm m :=
  ⟨h.1, h.2.mono hm⟩

/-- A script of quiet inputs is quiet as far as it goes. -/
theorem State.quiet_of_replicate {s : State} {n m : Nat} {i : Input} (he : s.env = List.replicate m i) (hn : n ≤ m)
    (hi : i.event = none) (hst : i.draws.stall = false) : s.Quiet n := by
  intro k hk
  have : s.inputAt k = i := by
    unfold State.inputAt
    have : s.env[k]? = some i := by rw [he, List.getElem?_replicate]; simp; omega
    rw [this]
  rw [this]
  exact ⟨hi, hst⟩

/-! Serving an access and accepting a word. -/

/-- The state in which an access takes effect has taken its input, and at most an access that waited no longer waits. -/
theorem State.Serves.eq {s s' : State} {a : HostAccess} (h : s.Serves a s') :
    s' = { s with inp := s.inputAt 0, env := s.env.tail, tick := s.tick + 1, waiting := s'.waiting } := by
  rcases h with ⟨-, -, rfl⟩ | ⟨-, -, rfl⟩ <;> rfl

theorem State.Serves.noReset {s s' : State} {a : HostAccess} (h : s.Serves a s') : (s.inputAt 0).event ≠ some .reset := by
  rcases h with ⟨h, -, -⟩ | ⟨h, -, -⟩ <;> rw [h] <;> simp

/-- A context whose access takes effect has no CMD write that is not complete. -/
theorem State.Serves.inFlight {s s' : State} {a : HostAccess} (h : s.Serves a s') : s.inFlight a.ctx = false := by
  rcases h with ⟨-, h, -⟩ | ⟨-, h, -⟩
  · exact (Bool.or_eq_false_iff.mp h).1
  · exact (State.ready_some h).1

/-- The step in which an access takes effect. -/
theorem State.Serves.step {s s' : State} {a : HostAccess} (h : s.Serves a s') : step s = s'.serve a := by
  rcases h with ⟨he, hb, rfl⟩ | ⟨he, hr, rfl⟩
  · simp [Machine.step, he, State.present, hb]
  · simp [Machine.step, he, ownMove, hr]

/-- The state in which a word is accepted has taken its input and carries the write. -/
theorem State.Accepts.eq {s s' : State} {c : Nat} {w : Word} (h : s.Accepts c w s') :
    s' = { s with
      inp := s.inputAt 0, env := s.env.tail, tick := s.tick + 1, carrier := some c
      cmdQueue := s'.cmdQueue, waiting := s'.waiting } := by
  obtain ⟨-, ⟨ws, -, -, -, rfl⟩ | ⟨r, hs, -, rfl⟩⟩ := h
  · rfl
  · have := hs.eq
    show { r with carrier := some c } = _
    rw [this]
    rfl

theorem State.Accepts.inputAt {s s' : State} {c : Nat} {w : Word} (h : s.Accepts c w s') (k : Nat) :
    s'.inputAt k = s.inputAt (k + 1) := by
  rw [← State.latch_inputAt]
  apply State.inputAt_congr <;> rw [h.eq] <;> rfl

theorem State.Accepts.noReset {s s' : State} {c : Nat} {w : Word} (h : s.Accepts c w s') : (s.inputAt 0).event ≠ some .reset := by
  obtain ⟨-, ⟨ws, h, -, -, -⟩ | ⟨r, hs, -, -⟩⟩ := h
  · rw [h]
    simp
  · exact hs.noReset

/-- The step in which a word is accepted. -/
theorem State.Accepts.step {s s' : State} {c : Nat} {w : Word} (h : s.Accepts c w s') : step s = acceptWord w s' := by
  obtain ⟨hb, ⟨ws, he, hr, hq, rfl⟩ | ⟨r, hs, hq, rfl⟩⟩ := h
  · simp [Machine.step, he, ownMove, hr, blockStep, hb, hq]
  · have hr := hs.eq
    have hcfg : r.cfg = s.cfg := by rw [hr]
    have hrb : r.busy = false := by rw [hr]; exact hb
    have hrq : r.cmdQueue = [] := by rw [hr]; exact hq
    rw [hs.step]
    simp [State.serve, cmdWrite, cmdAddr, hcfg, State.accessCmd, presentWrite, hrb, hrq]

/-! One step. -/

/-- What an access other than an accepted CMD write makes of the state in which it takes effect (10_state R34, R35, R37). -/
inductive Served (s : State) (a : HostAccess) : State → Prop
  | held (hw : a.write = true) (hh : ¬(s.busy = false ∧ s.cmdQueue = [])) : Served s a (s.queueWrite ⟨a.ctx, a.data⟩)
  | cmdRead (hw : a.write = false) : Served s a (s.answer (.data a.ctx cmdReadValue))
  | statusWrite (hw : a.write = true) (hm : a.width = 32 ∧ a.addr = statusAddr s.cfg) :
    Served s a ((s.clearErrors a.data).answer (.statusWritten a.ctx))
  | statusRead (hw : a.write = false) : Served s a (s.answer (.data a.ctx s.status))
  | unmapped : Served s a (s.recordIf true (.unmappedAccess ((a.addr : Int) - s.cfg.hostBase) a.width))

/-- Everything serving a host access can do: a CMD write is accepted, or the access takes its other effect. -/
theorem serve_cases (s : State) (a : HostAccess) :
    (a = cmdWrite s.cfg a.ctx a.data ∧ s.busy = false ∧ s.cmdQueue = [] ∧ s.serve a = acceptWord a.data (s.carry a.ctx)) ∨
    ∃ t, Served s a t ∧ s.serve a = .next t := by
  unfold State.serve State.accessCmd State.accessStatus presentWrite
  split_ifs with h1 hw hi h2 hw
  · refine .inl ⟨?_, hi.1, hi.2, rfl⟩
    obtain ⟨c, w, ad, wd, d⟩ := a
    obtain ⟨rfl, rfl⟩ : wd = 32 ∧ ad = cmdAddr s.cfg := h1
    obtain rfl : w = true := hw
    rfl
  · exact .inr ⟨_, .held hw hi, rfl⟩
  · exact .inr ⟨_, .cmdRead (Bool.eq_false_iff.mpr hw), rfl⟩
  · exact .inr ⟨_, .statusWrite hw h2, rfl⟩
  · exact .inr ⟨_, .statusRead (Bool.eq_false_iff.mpr hw), rfl⟩
  · exact .inr ⟨_, .unmapped, rfl⟩

/-- Everything a step can do: reset, an access that must wait, an access that takes effect, a word that is accepted, the engine, nothing. -/
theorem step_cases (s : State) :
    ((s.inputAt 0).event = some .reset ∧ step s = .next s.latch.resetBlock) ∨
    (∃ a, (s.inputAt 0).event = some (.access a) ∧ s.blocked a.ctx = true ∧ step s = .next (s.latch.hold a)) ∨
    (∃ a r t, s.Serves a r ∧ Served r a t ∧ step s = .next t) ∨
    (∃ c w s', s.Accepts c w s' ∧ step s = acceptWord w s') ∨
    ((s.inputAt 0).event = none ∧ s.ready = none ∧ s.busy = true ∧ step s = .next s.latch.engineStep) ∨
    ((s.inputAt 0).event = none ∧ s.ready = none ∧ s.busy = false ∧ s.cmdQueue = [] ∧ step s = .next s.latch) := by
  have served : ∀ {a r}, s.Serves a r →
      (∃ a r t, s.Serves a r ∧ Served r a t ∧ step s = .next t) ∨ ∃ c w s', s.Accepts c w s' ∧ step s = acceptWord w s' := by
    intro a r h
    have hr := h.eq
    rcases serve_cases r a with ⟨ha, hb, hq, -⟩ | ⟨t, ht, hs⟩
    · have hA : s.Accepts a.ctx a.data (r.carry a.ctx) := by
        refine ⟨by rw [hr] at hb; exact hb, .inr ⟨r, ?_, by rw [hr] at hq; exact hq, rfl⟩⟩
        have hcfg : r.cfg = s.cfg := by rw [hr]
        rw [hcfg] at ha
        exact ha ▸ h
      exact .inr ⟨_, _, _, hA, hA.step⟩
    · exact .inl ⟨a, r, t, h, ht, by rw [h.step, hs]⟩
  cases he : (s.inputAt 0).event with
  | some e =>
    cases e with
    | reset => exact .inl ⟨rfl, by simp [step, he]⟩
    | access a =>
      cases hb : s.blocked a.ctx with
      | true => exact .inr (.inl ⟨a, rfl, hb, by simp [step, he, State.present, hb]⟩)
      | false =>
        rcases served (.inl ⟨he, hb, rfl⟩) with h | h
        · exact .inr (.inr (.inl h))
        · exact .inr (.inr (.inr (.inl h)))
  | none =>
    cases hr : s.ready with
    | some a =>
      rcases served (.inr ⟨he, hr, rfl⟩) with h | h
      · exact .inr (.inr (.inl h))
      · exact .inr (.inr (.inr (.inl h)))
    | none =>
      cases hb : s.busy with
      | true => exact .inr (.inr (.inr (.inr (.inl ⟨rfl, rfl, rfl, by simp [step, he, ownMove, hr, blockStep, hb]⟩))))
      | false =>
        cases hq : s.cmdQueue with
        | nil => exact .inr (.inr (.inr (.inr (.inr ⟨rfl, rfl, rfl, rfl, by simp [step, he, ownMove, hr, blockStep, hb, hq]⟩))))
        | cons p ws =>
          have hA : s.Accepts p.ctx p.word (s.latch.takeWrite p ws) := ⟨hb, .inl ⟨ws, he, hr, hq, rfl⟩⟩
          exact .inr (.inr (.inr (.inl ⟨_, _, _, hA, hA.step⟩)))

/-- The engine's own step. -/
theorem step_engine {s : State} (h : s.EngineMoves) : step s = .next s.latch.engineStep := by
  obtain ⟨he, hr, hb, -⟩ := h
  simp [step, he, ownMove, hr, blockStep, hb]

/-- Every command's meaning answers a next state. -/
theorem exec_next (i : Instr) (s : State) : ∃ t, exec i s = .next t := by
  cases i with
  | openBus a => exact ⟨_, rfl⟩
  | writeByte b => exact ⟨_, rfl⟩
  | closeBus => exact ⟨_, rfl⟩
  | init => exact ⟨_, rfl⟩
  | setcur c p => exact ⟨_, rfl⟩
  | putc c => exact ⟨_, rfl⟩
  | puts a => exact ⟨_, rfl⟩
  | shift o => exact ⟨_, rfl⟩
  | clear => exact ⟨_, rfl⟩

/-- Accepting any word answers a next state. -/
theorem acceptWord_next (w : Word) (s : State) : ∃ t, acceptWord w s = .next t := by
  unfold acceptWord
  cases decode w with
  | ok i => exact exec_next i s
  | error e => exact ⟨_, rfl⟩

/-- Every step answers a next state. -/
theorem step_next (s : State) : ∃ t, step s = .next t := by
  rcases step_cases s with ⟨-, h⟩ | ⟨_, -, -, h⟩ | ⟨_, _, _, -, -, h⟩ | ⟨c, w, s', -, h⟩ | ⟨-, -, -, h⟩ | ⟨-, -, -, -, h⟩
  · exact ⟨_, h⟩
  · exact ⟨_, h⟩
  · exact ⟨_, h⟩
  · rw [h]
    exact acceptWord_next w s'
  · exact ⟨_, h⟩
  · exact ⟨_, h⟩

/-- A line action of the engine, before its stall is looked at. -/
theorem engineStep_act {s : State} {a : LineAction} {u : Update} {ms : List Micro} (hh : s.hung = false)
    (hp : s.pending = .act a u :: ms) : s.engineStep = (((s.load ms).emit a).update u).settle a := by
  simp [State.engineStep, hh, hp, State.perform]

/-- With no stall the engine goes on. -/
theorem State.settle_calm {s : State} {a : LineAction} (h : s.inp.draws.stall = false) : s.settle a = s.finish := by
  simp [State.settle, h]

/-- What a stall can do to a line action (60_exceptions R177). -/
theorem State.settle_cases (s : State) (a : LineAction) :
    s.settle a = s.finish ∨
    (a.isRelease = true ∧ s.inp.draws.stall = true ∧ s.cfg.stallPolicy = .none ∧ s.inp.draws.hang = true ∧ s.settle a = s.hang) ∨
    (a = .sclRel ∧ s.inp.draws.stall = true ∧ s.cfg.stallPolicy = .timeout ∧ s.settle a = s.load [.abort]) := by
  cases a <;> cases hs : s.inp.draws.stall <;> cases hp : s.cfg.stallPolicy <;> cases hh : s.inp.draws.hang <;>
    simp [State.settle, LineAction.isRelease, hs, hp, hh]

theorem State.emit_update_lines (s : State) (a : LineAction) (u : Update) :
    ((s.emit a).update u).lines = s.lines.after a u := rfl

/-! A run of line actions. -/

/-- What the engine leaves after the line actions `ms`, with `rest` still pending. -/
structure Drained (s t : State) (ms rest : List Micro) : Prop where
  trace : t.trace = s.trace ++ actionsOf ms
  lines : t.lines = s.lines.run ms
  pending : t.pending = rest
  busy : t.busy = !rest.isEmpty
  hung : t.hung = false
  cmdr : t.cmdr = s.cmdr
  sptr : t.sptr = s.sptr
  errIll : t.errIll = s.errIll
  errOor : t.errOor = s.errOor
  errTimeout : t.errTimeout = s.errTimeout
  cmdQueue : t.cmdQueue = s.cmdQueue
  carrier : t.carrier = if rest = [] then none else s.carrier
  waiting : t.waiting = s.waiting
  faults : t.faults = s.faults
  hostLog : t.hostLog = if rest = [] then s.hostLog ++ s.completion else s.hostLog
  riseOrder : t.riseOrder = s.riseOrder
  cfg : t.cfg = s.cfg
  inputs : ∀ k, t.inputAt k = s.inputAt (ms.length + k)

/-- One calm line action of the engine. -/
theorem step_act_calm {s : State} {a : LineAction} {u : Update} {ms : List Micro} (h : s.EngineMoves)
    (hp : s.pending = .act a u :: ms) (hs : (s.inputAt 0).draws.stall = false) :
    step s = .next ((((s.latch.load ms).emit a).update u).finish) := by
  have hst : (((s.latch.load ms).emit a).update u).inp.draws.stall = false := hs
  rw [step_engine h, engineStep_act (s := s.latch) h.2.2.2 hp, State.settle_calm hst]

/-- The machine's run, one step on. -/
theorem run_succ {s t : State} (n : Nat) (h : step s = .next t) :
    Host.Core.run Sys2Proof.core (n + 1) s = Host.Core.run Sys2Proof.core n t := by
  have h' : Sys2Proof.core.step s = .next t := h
  simp only [Host.Core.run, h']

theorem run_zero (s : State) : Host.Core.run Sys2Proof.core 0 s = .next s := rfl

/-- A run cut in two. -/
theorem run_add {s t : State} : ∀ {n : Nat} (m : Nat), Host.Core.run Sys2Proof.core n s = .next t →
    Host.Core.run Sys2Proof.core (n + m) s = Host.Core.run Sys2Proof.core m t := by
  intro n
  induction n generalizing s with
  | zero =>
    intro m h
    rw [run_zero] at h
    cases h
    rw [Nat.zero_add]
  | succ n ih =>
    intro m h
    obtain ⟨r, hr⟩ := step_next s
    rw [run_succ n hr] at h
    rw [Nat.add_right_comm, run_succ (n + m) hr]
    exact ih m h

/-- The engine performs line actions one a step when the peripheral answers (10_state R28, 40_bus_transport R120). -/
theorem drain : ∀ {ms rest : List Micro} {s : State}, (∀ m ∈ ms, m.isAct = true) → s.busy = true → s.hung = false →
    s.pending = ms ++ rest → ms ≠ [] → s.Calm ms.length →
    ∃ t, Host.Core.run Sys2Proof.core ms.length s = .next t ∧ Drained s t ms rest
  | [], _, _, _, _, _, _, hne, _ => absurd rfl hne
  | m :: ms, rest, s, hact, hb, hh, hp, _, hc => by
    cases m with
    | scan a => exact absurd (hact _ List.mem_cons_self) Bool.false_ne_true
    | nextChar => exact absurd (hact _ List.mem_cons_self) Bool.false_ne_true
    | abort => exact absurd (hact _ List.mem_cons_self) Bool.false_ne_true
    | act a u =>
      have hc0 := hc.2 0 (by simp)
      have hstep := step_act_calm ⟨hc0.1, hc.1, hb, hh⟩ hp hc0.2
      generalize hs1 : (((s.latch.load (ms ++ rest)).emit a).update u).finish = s1 at hstep
      have hin : ∀ k, s1.inputAt k = s.inputAt (k + 1) := by
        intro k
        rw [← State.latch_inputAt, State.inputAt_congr (s := s.latch) (t := s1)] <;> rw [← hs1] <;> rfl
      cases ms with
      | nil =>
        refine ⟨s1, ?_, ?_⟩
        · show Host.Core.run Sys2Proof.core (0 + 1) s = _
          rw [run_succ 0 hstep, run_zero]
        · subst hs1
          constructor <;> try rfl
          · cases rest <;> simp [hb]
          · exact hh
          · intro k
            rw [hin, Nat.add_comm]
            rfl
      | cons m' ms' =>
        have hb1 : s1.busy = true := by rw [← hs1]; simp [hb]
        have hh1 : s1.hung = false := by rw [← hs1]; exact hh
        have hp1 : s1.pending = (m' :: ms') ++ rest := by rw [← hs1]; rfl
        have hca : s1.carrier = s.carrier := by rw [← hs1]; simp
        have hr1 : s1.ready = none := by
          rw [State.ready_congr (s := s) _ hca] <;> first | exact hc.1 | (rw [← hs1]; rfl)
        have hc1 : s1.Calm (m' :: ms').length := ⟨hr1, hc.2.shift hin⟩
        obtain ⟨t, ht, hd⟩ := drain (fun m hm => hact m (List.mem_cons_of_mem _ hm)) hb1 hh1 hp1 (by simp) hc1
        refine ⟨t, ?_, ?_⟩
        · rw [List.length_cons, run_succ _ hstep, ht]
        · have hlines : s1.lines = s.lines.after a u := by rw [← hs1]; rfl
          have hlog : s1.hostLog = s.hostLog := by rw [← hs1]; simp
          have hcompl : s1.completion = s.completion := by simp only [State.completion, hca]
          constructor
          · rw [hd.trace, ← hs1]; simp
          · rw [hd.lines, hlines]; rfl
          · exact hd.pending
          · exact hd.busy
          · exact hd.hung
          · rw [hd.cmdr, ← hs1]; rfl
          · rw [hd.sptr, ← hs1]; rfl
          · rw [hd.errIll, ← hs1]; rfl
          · rw [hd.errOor, ← hs1]; rfl
          · rw [hd.errTimeout, ← hs1]; rfl
          · rw [hd.cmdQueue, ← hs1]; rfl
          · rw [hd.carrier, hca]
          · rw [hd.waiting, ← hs1]; rfl
          · rw [hd.faults, ← hs1]; rfl
          · rw [hd.hostLog, hlog, hcompl]
          · rw [hd.riseOrder, ← hs1]; rfl
          · rw [hd.cfg, ← hs1]; rfl
          · intro k
            rw [hd.inputs, hin]
            congr 1
            simp only [List.length_cons]
            omega

end Sys2Proof.Machine
end

