-- ==== Sys2Proof/Laws/Operands.lean ====
section
/-!
SUPPORT. The cursor bytes as formulas, the bytes of a glyph in and out of the table, and the lengths of the sequences.
-/

namespace Sys2Proof.Machine

/-- The cursor bytes are R129's formulas. -/
theorem cursorBytes_eq (p : Params) (c page : Byte) : cursorBytes p c page = setcurPayload p c page := by
  have hlo : ∀ c : Byte, colLo c = c &&& 0x0F := by decide
  have hhi : ∀ c : Byte, colHi c = 0x10 ||| (c >>> 4) := by decide
  simp [cursorBytes, setcurPayload, hlo, hhi, pageSel]

theorem inRange_iff {p : Params} {c : Byte} : inRange p c = true ↔ 32 ≤ c.toNat ∧ c.toNat ≤ p.lastChar := by
  have h : Config.firstChar = 32 := rfl
  simp only [inRange, Bool.and_eq_true, decide_eq_true_eq]
  rw [h]

theorem Params.font_length {p : Params} (h : p.legal = true) : p.font.length = (p.lastChar + 1 - 32) * 5 := by
  simp only [Params.legal, Bool.and_eq_true, beq_iff_eq] at h
  exact h.1.1.1.1.1.1.1.2

/-- The glyph of an in-range character is five bytes of the table (20_memory R56, 42_text_output R142). -/
theorem glyph_of_inRange {p : Params} (h : p.legal = true) (d : Draws) {c : Byte} (hc : inRange p c = true) :
    glyph p d c = tableGlyph p c := by
  have hl := Params.font_length h
  have hc := inRange_iff.mp hc
  apply List.ext_getElem
  · simp only [glyph, tableGlyph, List.length_map, List.length_finRange, List.length_take, List.length_drop, hl]
    omega
  · intro k h1 h2
    have hk : k < 5 := by simpa [glyph] using h1
    have hi : (glyphIndex c k).toNat = (c.toNat - 32) * 5 + k := by
      simp only [glyphIndex, Config.firstChar, Config.glyphWidth]
      omega
    have hr : 0 ≤ glyphIndex c k ∧ glyphIndex c k < p.fontSize := by
      simp only [glyphIndex, Config.firstChar, Config.glyphWidth, Params.fontSize]
      omega
    have hb : (c.toNat - 32) * 5 + k < p.font.length := by omega
    simp only [glyph, tableGlyph, glyphCol, List.getElem_map, List.getElem_finRange, Fin.val_cast, List.getElem_take, List.getElem_drop]
    rw [fontRead, if_pos hr, hi, List.getD_eq_getElem?_getD, List.getElem?_eq_getElem hb]
    rfl

/-- The glyph of an out-of-range character is the five draws (20_memory R58, 42_text_output R143). -/
theorem glyph_of_not_inRange {p : Params} (d : Draws) {c : Byte} (hc : inRange p c = false) :
    glyph p d c = d.glyph.toList := by
  have hc : ¬(32 ≤ c.toNat ∧ c.toNat ≤ p.lastChar) := fun h => by simp [inRange_iff.mpr h] at hc
  apply List.ext_getElem
  · simp [glyph]
  · intro k h1 h2
    have hk : k < 5 := by simpa [glyph] using h1
    have hr : ¬(0 ≤ glyphIndex c k ∧ glyphIndex c k < p.fontSize) := by
      simp only [glyphIndex, Config.firstChar, Config.glyphWidth, Params.fontSize]
      omega
    simp only [glyph, glyphCol, List.getElem_map, List.getElem_finRange, Fin.val_cast]
    rw [fontRead, if_neg hr]
    rfl

/-- The action count of a byte (40_bus_transport R107). -/
theorem byteActions_length : ∀ v : Byte, (byteActions v).length = byteActionCount v := by decide

theorem flatMap_byteActions_length (bs : List Byte) : (bs.flatMap byteActions).length = (bs.map byteActionCount).sum := by
  rw [List.length_flatMap]
  congr 1
  exact List.map_congr_left fun b _ => byteActions_length b

/-- Micro-steps that are all line actions, read as actions. -/
theorem map_action_eq {ms : List Micro} (h : ∀ m ∈ ms, m.isAct = true) : ms.map Micro.action = (actionsOf ms).map some := by
  induction ms with
  | nil => rfl
  | cons m ms ih =>
    have ih := ih fun m hm => h m (List.mem_cons_of_mem _ hm)
    cases m with
    | act a u => simp only [List.map_cons, actionsOf_act, ih]; rfl
    | scan a => exact absurd (h _ List.mem_cons_self) Bool.false_ne_true
    | nextChar => exact absurd (h _ List.mem_cons_self) Bool.false_ne_true
    | abort => exact absurd (h _ List.mem_cons_self) Bool.false_ne_true

theorem txBytes_length (bs : List (Update × Byte)) : (txBytes bs).length = ((bs.map Prod.snd).map byteActionCount).sum := by
  rw [← length_actionsOf (txBytes_isAct bs), actionsOf_txBytes, flatMap_byteActions_length]

/-! Strings. -/

theorem strChars_length (p : Params) : ∀ (n : Nat) (a : StrAddr), (strChars p a n).length = n
  | 0, _ => rfl
  | n + 1, a => congrArg (· + 1) (strChars_length p n (a + 1))

/-- The sentinel is not a character with a glyph. -/
theorem inRange_sentinel (p : Params) : inRange p Config.sentinel = false := by
  cases h : inRange p Config.sentinel with
  | false => rfl
  | true => exact absurd (inRange_iff.mp h).1 (by decide)

theorem sentinelWithin_iff (p : Params) : ∀ (n : Nat) (a : StrAddr),
    sentinelWithin p n a = true ↔ ∃ k < n, strRead p (a + BitVec.ofNat 16 k) = Config.sentinel
  | 0, a => by simp [sentinelWithin]
  | n + 1, a => by
    have next : ∀ k, a + 1 + BitVec.ofNat 16 k = a + BitVec.ofNat 16 (k + 1) := by
      intro k
      rw [BitVec.add_assoc, BitVec.add_comm 1 (BitVec.ofNat 16 k), BitVec.ofNat_add]
      rfl
    simp only [sentinelWithin, Bool.or_eq_true, beq_iff_eq, sentinelWithin_iff p n, next]
    constructor
    · rintro (h | ⟨k, hk, h⟩)
      · exact ⟨0, Nat.succ_pos n, by simpa using h⟩
      · exact ⟨k + 1, Nat.succ_lt_succ hk, h⟩
    · rintro ⟨k, hk, h⟩
      cases k with
      | zero => exact .inl (by simpa using h)
      | succ k => exact .inr ⟨k, Nat.lt_of_succ_lt_succ hk, h⟩

/-- A string ROM has a sentinel where some address holds it. -/
theorem hasSentinel_iff (p : Params) : hasSentinel p = true ↔ ∃ a, strRead p a = Config.sentinel := by
  rw [hasSentinel, sentinelWithin_iff]
  constructor
  · rintro ⟨k, -, h⟩
    exact ⟨_, h⟩
  · rintro ⟨a, h⟩
    exact ⟨a.toNat, a.isLt, by simpa using h⟩

end Sys2Proof.Machine
end

