-- ==== Sys2Proof/Laws/Exec.lean ====
section
/-!
SUPPORT. What accepting a command and one engine step can do, each said once.
-/

namespace Sys2Proof.Machine

/-- One engine step of an engine that is not hung performs the head of PENDING. -/
theorem engineStep_cons {s : State} {m : Micro} {ms : List Micro} (hh : s.hung = false) (hp : s.pending = m :: ms) :
    s.engineStep = (s.load ms).perform m := by
  rw [State.engineStep, if_neg (by simp [hh]), hp]

/-- A hung engine does nothing. -/
theorem engineStep_hung {s : State} (hh : s.hung = true) : s.engineStep = s := by
  rw [State.engineStep, if_pos hh]

theorem step_perform {s : State} {m : Micro} {ms : List Micro} (h : s.EngineMoves) (hp : s.pending = m :: ms) :
    step s = .next ((s.latch.load ms).perform m) := by
  rw [step_engine h, engineStep_cons (s := s.latch) h.2.2.2 hp]

/-- Everything an engine step can do. -/
theorem engineStep_cases (s : State) :
    (s.hung = true ∧ s.engineStep = s) ∨
    (s.hung = false ∧ s.pending = [] ∧ s.engineStep = s.finish) ∨
    (∃ a u ms, s.hung = false ∧ s.pending = .act a u :: ms ∧ s.engineStep = (((s.load ms).emit a).update u).settle a) ∨
    (∃ a ms, s.hung = false ∧ s.pending = .scan a :: ms ∧ s.engineStep = (s.load ms).scanStep a) ∨
    (∃ ms, s.hung = false ∧ s.pending = .nextChar :: ms ∧ s.engineStep = (s.load ms).nextCharStep) ∨
    (∃ ms, s.hung = false ∧ s.pending = .abort :: ms ∧ s.engineStep = (s.load ms).abortStep) := by
  cases hh : s.hung with
  | true => exact .inl ⟨rfl, engineStep_hung hh⟩
  | false =>
    cases hp : s.pending with
    | nil =>
      refine .inr (.inl ⟨rfl, rfl, ?_⟩)
      rw [State.engineStep, if_neg (by simp [hh]), hp]
    | cons m ms =>
      have h := engineStep_cons hh hp
      cases m with
      | act a u => exact .inr (.inr (.inl ⟨a, u, ms, rfl, rfl, h⟩))
      | scan a => exact .inr (.inr (.inr (.inl ⟨a, ms, rfl, rfl, h⟩)))
      | nextChar => exact .inr (.inr (.inr (.inr (.inl ⟨ms, rfl, rfl, h⟩))))
      | abort => exact .inr (.inr (.inr (.inr (.inr ⟨ms, rfl, rfl, h⟩))))

/-- Everything one step of the pre-scan can do (42_text_output R150-R152). -/
theorem scanStep_cases (s : State) (a : StrAddr) :
    (s.charAtSptr = Config.sentinel ∧ s.scanStep a = s.beginText a) ∨
    (s.charAtSptr ≠ Config.sentinel ∧ (inRange s.cfg s.charAtSptr = true ∨ hasSentinel s.cfg = false) ∧
      s.scanStep a = (s.setSptr (s.sptr + 1)).push [.scan a]) ∨
    (s.charAtSptr ≠ Config.sentinel ∧ inRange s.cfg s.charAtSptr = false ∧ hasSentinel s.cfg = true ∧
      s.scanStep a = s.raise .outOfRangeCharacter) := by
  unfold State.scanStep
  split_ifs with h1 h2
  · exact .inl ⟨h1, rfl⟩
  · rw [State.scanPasses, Bool.or_eq_true, Bool.not_eq_true'] at h2
    exact .inr (.inl ⟨h1, h2, rfl⟩)
  · rw [State.scanPasses, Bool.not_eq_true, Bool.or_eq_false_iff, Bool.not_eq_false'] at h2
    exact .inr (.inr ⟨h1, h2.1, h2.2, rfl⟩)

/-- Everything one turn of the loop of PUTS can do (42_text_output R150). -/
theorem nextCharStep_cases (s : State) :
    (s.charAtSptr = Config.sentinel ∧ s.nextCharStep = s.push txStop) ∨
    (s.charAtSptr ≠ Config.sentinel ∧
      s.nextCharStep = (s.setSptr (s.sptr + 1)).push (txBytes (charPayload s.cfg s.inp.draws s.charAtSptr) ++ [.nextChar])) := by
  unfold State.nextCharStep
  split_ifs with h
  · exact .inl ⟨h, rfl⟩
  · exact .inr ⟨h, rfl⟩

/-- The fields of a state whose text session begins. -/
theorem beginText_pending (s : State) (a : StrAddr) :
    (s.beginText a).pending = txStart ++ txByte {} s.cfg.addrData ++ [.nextChar] ++ s.pending := rfl

/-- What a command's acceptance writes beside what it leaves alone. -/
structure Accepted (i : Instr) (s t : State) : Prop where
  kept : t = { s with
    cmdr := encode i, busy := t.busy, pending := t.pending, faults := t.faults, sptr := t.sptr
    errOor := t.errOor, carrier := t.carrier, hostLog := t.hostLog }
  outcome :
    (t.busy = true ∧ t.pending ≠ [] ∧ t.errOor = s.errOor ∧ t.carrier = s.carrier ∧ t.hostLog = s.hostLog ∧
      (t.faults = s.faults ∨ t.faults = addFault (.sessionDiscipline i.mnemonic) s.faults)) ∨
    (t.busy = false ∧ t.pending = [] ∧ t.errOor = true ∧ t.carrier = none ∧ t.hostLog = s.hostLog ++ s.completion ∧ t.faults = s.faults)
  shaped : ∀ m ∈ t.pending, m.shaped = true

theorem session_ne_nil (addr : Byte) (bs : List (Update × Byte)) : Machine.session addr bs ≠ [] := by
  simp [Machine.session, txStart]

theorem recordIf_faults_cases (s : State) (c : Bool) (f : Fault) :
    (s.recordIf c f).faults = s.faults ∨ (s.recordIf c f).faults = addFault f s.faults := by
  cases c
  · exact .inl rfl
  · exact .inr rfl

theorem beginDisplay_accepted (s : State) (i : Instr) {ms : List Micro} (hne : ms ≠ []) (hs : ∀ m ∈ ms, m.shaped = true) :
    Accepted i s (s.beginDisplay i ms) where
  kept := rfl
  outcome := .inl ⟨rfl, hne, rfl, rfl, rfl, recordIf_faults_cases _ _ _⟩
  shaped := hs

theorem txStart_shaped : ∀ m ∈ txStart, m.shaped = true := by decide

theorem txStop_shaped : ∀ m ∈ txStop, m.shaped = true := by decide

theorem openBus_shaped (addr : Byte) : ∀ m ∈ txStart ++ txByte {} addr, m.shaped = true := by
  intro m hm
  rcases List.mem_append.mp hm with h | h
  · exact txStart_shaped m h
  · exact txByte_shaped rfl _ m h

theorem clearExpansion_shaped (p : Params) : ∀ m ∈ clearExpansion p, m.shaped = true := by
  intro m hm
  simp only [clearExpansion, setcurExpansion, shiftExpansion, List.mem_append] at hm
  rcases hm with (h | h) | h
  · exact session_shaped _ (plainBytes_noSession _) m h
  · exact session_shaped _ (indexedBytes_noSession _ _) m h
  · exact session_shaped _ (plainBytes_noSession _) m h

/-- Everything the acceptance of any command can do. -/
theorem exec_accepted {i : Instr} {s t : State} (h : exec i s = .next t) : Accepted i s t := by
  cases i with
  | openBus a => cases h; exact beginDisplay_accepted s (.openBus a) (by simp [txStart]) (openBus_shaped a)
  | writeByte b =>
    cases h
    exact ⟨rfl, .inl ⟨rfl, by simp [txByte], rfl, rfl, rfl, recordIf_faults_cases _ _ _⟩, txByte_shaped rfl _⟩
  | closeBus =>
    cases h
    exact ⟨rfl, .inl ⟨rfl, by simp [txStop], rfl, rfl, rfl, recordIf_faults_cases _ _ _⟩, txStop_shaped⟩
  | init => cases h; exact beginDisplay_accepted s .init (session_ne_nil _ _) (session_shaped _ (indexedBytes_noSession _ _))
  | setcur c p => cases h; exact beginDisplay_accepted s _ (session_ne_nil _ _) (session_shaped _ (plainBytes_noSession _))
  | shift o => cases h; exact beginDisplay_accepted s _ (session_ne_nil _ _) (session_shaped _ (plainBytes_noSession _))
  | clear =>
    cases h
    exact beginDisplay_accepted s .clear (by simp [clearExpansion, setcurExpansion, session_ne_nil]) (clearExpansion_shaped _)
  | putc c =>
    cases h
    unfold State.startPutc
    split_ifs
    · refine ⟨?_, .inr ⟨rfl, rfl, by simp [State.raise], rfl, rfl, rfl⟩, by simp [State.raise]⟩
      simp [State.raise, State.accept]
    · exact beginDisplay_accepted s _ (session_ne_nil _ _) (session_shaped _ (charPayload_noSession _ _ _))
  | puts a =>
    cases h
    unfold State.startPuts
    split_ifs
    · exact ⟨rfl, .inl ⟨rfl, by simp [State.load], rfl, rfl, rfl, .inl rfl⟩, by simp [State.load, Micro.shaped]⟩
    · refine ⟨rfl, .inl ⟨rfl, by simp [beginText_pending], rfl, rfl, rfl, recordIf_faults_cases _ _ _⟩, ?_⟩
      intro m hm
      simp only [beginText_pending, List.mem_append] at hm
      rcases hm with (hm | hm) | hm
      · exact openBus_shaped _ m (List.mem_append.mpr hm)
      · rcases List.mem_singleton.mp hm with rfl
        rfl
      · exact absurd hm List.not_mem_nil

/-- Everything the acceptance of a word can do. -/
theorem acceptWord_cases {w : Word} {s t : State} (h : acceptWord w s = .next t) :
    (∃ i, decode w = .ok i ∧ exec i s = .next t) ∨ (∃ e, decode w = .error e ∧ t = s.acceptIllegal w) := by
  unfold acceptWord at h
  cases hd : decode w with
  | ok i => rw [hd] at h; exact .inl ⟨i, rfl, h⟩
  | error e => rw [hd] at h; cases h; exact .inr ⟨e, rfl, rfl⟩

/-! What is to come. -/

theorem engineStep_env (s : State) : s.engineStep.env = s.env ∧ s.engineStep.tick = s.tick := by
  rcases engineStep_cases s with ⟨-, h⟩ | ⟨-, -, h⟩ | ⟨a, u, ms, -, -, h⟩ | ⟨a, ms, -, -, h⟩ | ⟨ms, -, -, h⟩ | ⟨ms, -, -, h⟩ <;> rw [h]
  · exact ⟨rfl, rfl⟩
  · exact ⟨rfl, rfl⟩
  · rcases State.settle_cases (((s.load ms).emit a).update u) a with h | ⟨-, -, -, -, h⟩ | ⟨-, -, -, h⟩ <;> rw [h] <;> exact ⟨rfl, rfl⟩
  · rcases scanStep_cases (s.load ms) a with ⟨-, h⟩ | ⟨-, -, h⟩ | ⟨-, -, -, h⟩ <;> rw [h] <;> exact ⟨rfl, rfl⟩
  · rcases nextCharStep_cases (s.load ms) with ⟨-, h⟩ | ⟨-, h⟩ <;> rw [h] <;> exact ⟨rfl, rfl⟩
  · exact ⟨rfl, rfl⟩

theorem acceptWord_env {w : Word} {s t : State} (h : acceptWord w s = .next t) : t.env = s.env ∧ t.tick = s.tick := by
  rcases acceptWord_cases h with ⟨i, -, hx⟩ | ⟨-, -, rfl⟩
  · rw [(exec_accepted hx).kept]
    exact ⟨rfl, rfl⟩
  · exact ⟨rfl, rfl⟩

/-- Whatever a step does, it takes exactly one input. -/
theorem step_inputAt {s t : State} (h : step s = .next t) (k : Nat) : t.inputAt k = s.inputAt (k + 1) := by
  suffices h : t.env = s.latch.env ∧ t.tick = s.latch.tick by rw [← State.latch_inputAt, State.inputAt_congr h.1 h.2]
  rcases step_cases s with ⟨-, e⟩ | ⟨_, -, -, e⟩ | ⟨_, r, _, hs, hv, e⟩ | ⟨c, w, s', hA, e⟩ | ⟨-, -, -, e⟩ | ⟨-, -, -, -, e⟩ <;> rw [e] at h
  · cases h
    exact ⟨rfl, rfl⟩
  · cases h
    exact ⟨rfl, rfl⟩
  · cases h
    have hr : r.env = s.latch.env ∧ r.tick = s.latch.tick := by
      rw [hs.eq]
      exact ⟨rfl, rfl⟩
    cases hv <;> exact hr
  · have ha := acceptWord_env h
    rw [ha.1, ha.2, hA.eq]
    exact ⟨rfl, rfl⟩
  · cases h
    exact engineStep_env s.latch
  · cases h
    exact ⟨rfl, rfl⟩

end Sys2Proof.Machine
end

