-- ==== Sys2Proof/Laws/PerInstr.lean ====
section
/-!
SUPPORT. For every command: its word is one of the words of its own row of the opcode map (30_encoding R83, R84).
-/

namespace Sys2Proof.Laws.RowMatch

/-- The encoder's word for an instruction is hit by the row of the instruction's own mnemonic. -/
def Statement (i : Instr) : Prop := ∃ r ∈ opcodeMap, r.mnemonic = i.mnemonic ∧ r.hits (encode i) = true

theorem openBus (addr : Byte) : Statement (.openBus addr) :=
  ⟨⟨.openBus, 0x10000000, 0xFF00FFFF⟩, by decide, rfl, beq_iff_eq.mpr (formatB_mask 0x1 addr)⟩

theorem writeByte (b : Byte) : Statement (.writeByte b) :=
  ⟨⟨.writeByte, 0x20000000, 0xFF00FFFF⟩, by decide, rfl, beq_iff_eq.mpr (formatB_mask 0x2 b)⟩

theorem closeBus : Statement .closeBus :=
  ⟨⟨.closeBus, 0x30000000, 0xFFFFFFFF⟩, by decide, rfl, by decide⟩

theorem init : Statement .init :=
  ⟨⟨.init, 0x40000000, 0xFFFFFFFF⟩, by decide, rfl, by decide⟩

theorem setcur (c p : Byte) : Statement (.setcur c p) :=
  ⟨⟨.setcur, 0x50000000, 0xFF00FF00⟩, by decide, rfl, beq_iff_eq.mpr (formatCP_mask 0x5 c p)⟩

theorem putc (c : Byte) : Statement (.putc c) :=
  ⟨⟨.putc, 0x60000000, 0xFF00FFFF⟩, by decide, rfl, beq_iff_eq.mpr (formatB_mask 0x6 c)⟩

theorem puts (a : StrAddr) : Statement (.puts a) :=
  ⟨⟨.puts, 0x70000000, 0xFFFF0000⟩, by decide, rfl, beq_iff_eq.mpr (formatS_mask 0x7 a)⟩

theorem shift (o : Byte) : Statement (.shift o) :=
  ⟨⟨.shift, 0x80000000, 0xFF00FFFF⟩, by decide, rfl, beq_iff_eq.mpr (formatB_mask 0x8 o)⟩

theorem clear : Statement .clear :=
  ⟨⟨.clear, 0x90000000, 0xFFFFFFFF⟩, by decide, rfl, by decide⟩

end Sys2Proof.Laws.RowMatch
end

