-- ==== Sys2Proof/Tests/Slice0.lean ====
section
/-!
SUPPORT. The model's own tests. Expected values come from the tables of spec/95_test_vectors.md and from hand calculation with the rules
named; the witnesses show concrete states that meet the hypotheses of the statements.
-/

namespace Sys2Proof.Tests

open Sys2Proof.Machine

set_option maxRecDepth 20000

/-! ## The test configuration TC1 (95_test_vectors, section 0) and small states -/

/-- TC1's table: glyphs of '0', 'A', 'B' at 80, 165, 170; the rest zero. -/
def font : List Byte :=
  List.replicate 80 0 ++ [0x3E, 0x51, 0x49, 0x45, 0x3E] ++ List.replicate 80 0 ++
  [0x7C, 0x12, 0x11, 0x12, 0x7C, 0x7F, 0x49, 0x49, 0x49, 0x36] ++ List.replicate 300 0

def tc1 : Params where
  lastChar := 126
  font := font
  pageCount := 4
  pageMask := 0x03
  pageMarker := 0xB0
  shiftCmd := 0xD3
  initSeq := [0xA8, 0x1F, 0xAF]
  addrCmd := 0x78
  addrData := 0x7A
  strRom := [(0x0000, 0x42), (0x0010, 0x41), (0x0011, 0x42), (0x0020, 0x41), (0x0021, 0x7F), (0xFFFF, 0x41)]
  hardenGlyph := false
  stallPolicy := .none
  hostBase := 0x1000

def tc1Hard : Params := { tc1 with hardenGlyph := true }

def tc1Timeout : Params := { tc1 with stallPolicy := .timeout }

/-- Draws of a peripheral that answers. -/
def answering : Draws := ⟨false, false, false, false, ⟨#[1, 2, 3, 4, 5], rfl⟩, false, false⟩

def quiet : Input := ⟨none, answering⟩

def stalled (hang : Bool) : Input := ⟨none, { answering with stall := true, hang := hang }⟩

/-- The state after reset with a known configuration and known inputs to come. -/
def start (p : Params) (env : List Input) : State := { State.reset with cfg := p, inp := quiet, env := env }

/-- An idle block on which the CMD writes `ws` are held, and `n` quiet steps to come. -/
def idleWith (p : Params) (ws : List HeldWrite) (n : Nat) : State := { start p (List.replicate n quiet) with cmdQueue := ws }

/-- An idle block to which host context 0 writes the word `w` at the next step, and `n` quiet steps after it. -/
def presenting (p : Params) (w : Word) (n : Nat) : State :=
  start p (⟨some (.access (cmdWrite p 0 w)), answering⟩ :: List.replicate n quiet)

/-- A block in the middle of a command that host context 0 has written. -/
def working (p : Params) (ms : List Micro) (env : List Input) : State :=
  { start p env with busy := true, carrier := some 0, pending := ms }

/-- What a step or a meaning leaves, read by a function. -/
def after {α : Type} (o : Host.Outcome State Fault Refusal) (f : State → α) : Option α :=
  match o with
  | .next t => some (f t)
  | .fault _ => none
  | .refused _ => none

/-- The line actions a command's acceptance puts into PENDING. -/
def acts (p : Params) (i : Instr) : Option (List LineAction) := after (exec i (start p [])) fun t => actionsOf t.pending

/-- The frames of a command that starts from released lines. -/
def frames (p : Params) (i : Instr) : Option (List Frame) := (acts p i).map decodeFrames

abbrev d0 := LineAction.sdaLow
abbrev d1 := LineAction.sdaRel
abbrev c0 := LineAction.sclLow
abbrev c1 := LineAction.sclRel

/-! ## Decoding (95_test_vectors 2.5; 30_encoding R84, R92: each word written out) -/

theorem test_decode_open : decode 0b00010000011110000000000000000000 = .ok (.openBus 0x78) ∧
    decode 0x10780001 = .error (.reservedBit 1) := by decide
theorem test_decode_write : decode 0b00100000111111110000000000000000 = .ok (.writeByte 0xFF) ∧
    decode 0x20A50000 = .ok (.writeByte 0xA5) := by decide
theorem test_decode_close : decode 0b00110000000000000000000000000000 = .ok .closeBus ∧
    decode 0x31000000 = .error (.reservedBit 3) := by decide
theorem test_decode_init : decode 0b01000000000000000000000000000000 = .ok .init ∧
    decode 0x40000100 = .error (.reservedBit 4) := by decide
theorem test_decode_setcur : decode 0b01010000110010000000000000000001 = .ok (.setcur 200 1) ∧
    decode 0x50C80101 = .error (.reservedBit 5) ∧ decode 0x5FC80001 = .error (.reservedBit 5) := by decide
theorem test_decode_putc : decode 0b01100000010000010000000000000000 = .ok (.putc 0x41) := by decide
theorem test_decode_puts : decode 0b01110000000000001111111111111111 = .ok (.puts 0xFFFF) ∧
    decode 0x70010000 = .error (.reservedBit 7) := by decide
theorem test_decode_shift : decode 0b10000000000001010000000000000000 = .ok (.shift 5) := by decide
theorem test_decode_clear : decode 0b10010000000000000000000000000000 = .ok .clear ∧
    decode 0x90000001 = .error (.reservedBit 9) := by decide
theorem test_decode_reserved : decode 0x00000000 = .error (.reservedOpcode 0) ∧
    decode 0xA0000000 = .error (.reservedOpcode 0xA) ∧ decode 0xF0000000 = .error (.reservedOpcode 0xF) ∧
    decode 0xFFFFFFFF = .error (.reservedOpcode 0xF) := by decide

/-- The encoder gives the words of 30_encoding R92. -/
theorem test_encode : [Instr.openBus 0x78, .writeByte 0xA5, .closeBus, .init, .setcur 127 3, .putc 0x41, .puts 0x10, .shift 0, .clear].map encode =
    [0x10780000, 0x20A50000, 0x30000000, 0x40000000, 0x507F0003, 0x60410000, 0x70000010, 0x80000000, 0x90000000] := by decide

/-! ## Well-formedness: a term each check refuses (30_encoding R83, R86, R90; 00_scope R8-R10) -/

theorem test_wf_words : ([0x00000000, 0xA0000000, 0x10780001, 0x31000000, 0x70010000, 0x50C80101].map legalWord).all (! ·) = true ∧
    legalWord 0x10780000 = true := by decide
theorem test_wf_openBus : SourceLine.wellFormed (.openBus 256) = false := by decide
theorem test_wf_writeByte : SourceLine.wellFormed (.writeByte 256) = false := by decide
theorem test_wf_setcur : SourceLine.wellFormed (.setcur 256 0) = false ∧ SourceLine.wellFormed (.setcur 0 256) = false := by decide
theorem test_wf_putc : SourceLine.wellFormed (.putc 256) = false := by decide
theorem test_wf_puts : SourceLine.wellFormed (.puts 65536) = false ∧ SourceLine.wellFormed (.puts 65535) = true := by decide
theorem test_wf_shift : SourceLine.wellFormed (.shift 256) = false ∧ SourceLine.wellFormed (.shift 255) = true := by decide
theorem test_wf_send : SourceLine.wellFormed (.send 256 []) = false ∧ SourceLine.wellFormed (.send 0x78 [1, 256]) = false := by decide
theorem test_wf_cmds : SourceLine.wellFormed (.cmds [256]) = false ∧ SourceLine.wellFormed (.data [256]) = false := by decide
theorem test_wf_config : tc1.legal = true := by decide
theorem test_wf_lastChar : Params.legal { tc1 with lastChar := 127 } = false ∧ Params.legal { tc1 with lastChar := 65 } = false := by decide
theorem test_wf_font : Params.legal { tc1 with font := [] } = false := by decide
theorem test_wf_pages : Params.legal { tc1 with pageCount := 5 } = false ∧ Params.legal { tc1 with pageMask := 0x0F } = false ∧
    Params.legal { tc1 with pageMarker := 0xB1 } = false := by decide
theorem test_wf_initSeq : Params.legal { tc1 with initSeq := [] } = false := by decide
theorem test_wf_addrs : Params.legal { tc1 with addrData := 0x78 } = false ∧ Params.legal { tc1 with addrData := 0x7E } = false := by decide
theorem test_wf_strRom : Params.legal { tc1 with strRom := [(1, 0x41), (0, 0x42)] } = false ∧
    Params.legal { tc1 with strRom := [(1, 0x00)] } = false := by decide
theorem test_wf_hostBase : Params.legal { tc1 with hostBase := 0x1004 } = false := by decide

/-! ## The instructions, each by its acceptance (95_test_vectors 2.1-2.4) -/

/-- T1's trace: `d0 c0` and TxByte(0x78) as its table has it. -/
theorem test_open_trace : acts tc1 (.openBus 0x78) = some
    ([d0, c0] ++ [d0, c1, c0, d0, d1, c1, c0, d0, d1, c1, c0, d0, d1, c1, c0, d0, d1, c1, c0, d0, c1, c0, d0, c1, c0, d0, c1, c0, d1, c1, c0]) := by
  decide
/-- T9: an OPEN inside a session records the fault. -/
theorem test_open_fault : after (exec (.openBus 0x7A) { start tc1 [] with session := true }) (·.faults) =
    some [.sessionDiscipline .openBus] := by decide
/-- The table's row 0xA5 (T2). -/
theorem test_write_trace : acts tc1 (.writeByte 0xA5) = some
    [d0, d1, c1, c0, d0, c1, c0, d0, d1, c1, c0, d0, c1, c0, d0, c1, c0, d0, d1, c1, c0, d0, c1, c0, d0, d1, c1, c0, d1, c1, c0] := by
  decide
/-- T7: the fault of a WRITE without a session, and none inside one. -/
theorem test_write_fault : after (exec (.writeByte 0x55) (start tc1 [])) (·.faults) = some [.sessionDiscipline .writeByte] ∧
    after (exec (.writeByte 0x55) { start tc1 [] with session := true }) (·.faults) = some [] := by decide
/-- T3 and T6. -/
theorem test_close : acts tc1 .closeBus = some [d0, c1, d1] ∧
    after (exec .closeBus (start tc1 [])) (·.faults) = some [.sessionDiscipline .closeBus] := by decide
/-- DC1. -/
theorem test_init : frames tc1 .init = some [.wellFormed 0x78 [0xA8, 0x1F, 0xAF]] ∧
    (acts tc1 .init).map List.length = some 131 := by decide
/-- DC4, the source's example L1.1. -/
theorem test_setcur : frames tc1 (.setcur 200 1) = some [.wellFormed 0x78 [0x08, 0x1C, 0xB1]] ∧
    (acts tc1 (.setcur 200 1)).map List.length = some 125 := by decide
/-- DC7: nothing reduced, the page masked. -/
theorem test_setcur_top : frames tc1 (.setcur 255 255) = some [.wellFormed 0x78 [0x0F, 0x1F, 0xB3]] := by decide
/-- X1. -/
theorem test_putc : frames tc1 (.putc 0x41) = some [.wellFormed 0x7A [0x00, 0x7C, 0x12, 0x11, 0x12, 0x7C]] ∧
    (acts tc1 (.putc 0x41)).map List.length = some 215 := by decide
/-- X5: hardened, no line action, STATUS 0x1D0. -/
theorem test_putc_hard : after (exec (.putc 127) (start tc1Hard [])) (fun t => (t.status, t.pending, t.trace)) =
    some (0x000001D0, [], []) := by decide
/-- X8's first character: six bytes, and the loop goes on at the next address. -/
theorem test_puts_char : after (step { working tc1 [.nextChar] [quiet] with sptr := 0x0010 })
    (fun t => (t.sptr, actionsOf t.pending, t.pending.getLast?)) =
    some (0x0011, ([0x00, 0x7C, 0x12, 0x11, 0x12, 0x7C] : List Byte).flatMap byteActions, some .nextChar) := by decide
/-- X10: the string pointer wraps; X9: the sentinel closes. -/
theorem test_puts_wrap_end : after (step { working tc1 [.nextChar] [quiet] with sptr := 0xFFFF }) (·.sptr) = some 0x0000 ∧
    after (step { working tc1 [.nextChar] [quiet] with sptr := 0x0012 }) (fun t => actionsOf t.pending) = some [d0, c1, d1] := by decide
/-- M3: unmasked. -/
theorem test_shift : frames tc1 (.shift 255) = some [.wellFormed 0x78 [0xD3, 0xFF]] ∧
    (acts tc1 (.shift 255)).map List.length = some 103 := by decide
/-- M4's counts: 121 + 13861 + 95. -/
theorem test_clear_counts : sessionActionCount 0x78 [0x00, 0x10, 0xB0] = 121 ∧ 2 + 32 + 27 * tc1.clearCount + 3 = 13861 ∧
    sessionActionCount 0x78 [0xD3, 0x00] = 95 := by decide
/-- M4's first session comes first. -/
theorem test_clear_first : (acts tc1 .clear).map (List.take 121) = acts tc1 (.setcur 0 0) := by decide

/-! ## The engine, the host's side, reset (95_test_vectors 2.6, 2.7) -/

/-- E1: an illegal word, STATUS 0xC8; presented to an idle block it is accepted at once. -/
theorem test_illegal_word : after (step (presenting tc1 0xA0000000 0)) (fun t => ((t.status, t.trace), t.hostLog, t.cmdQueue, t.carrier)) =
    some ((0x000000C8, []), [.commandDone 0], [], none) := by decide

/-- A host access presented at the next step. -/
def accessed (s : State) (a : HostAccess) : State := { s with env := [⟨some (.access a), answering⟩] }

/-- E2 and E3: what a STATUS write clears. -/
theorem test_status_write :
    after (step (accessed { start tc1 [] with errIll := true } ⟨0, true, 0x1004, 32, 0x00000008⟩)) State.status = some 0x000000C0 ∧
    after (step (accessed { start tc1 [] with errIll := true } ⟨0, true, 0x1004, 32, 0xFFFFFFF7⟩)) State.status = some 0x000000C8 := by
  decide
/-- 10_state R35: a CMD write while BUSY is 0 is accepted in one step, CMDR and BUSY written; one while BUSY is 1 is held. -/
theorem test_cmd_write :
    after (step (accessed (start tc1 []) (cmdWrite tc1 5 0x30000000))) (fun t => (t.cmdr, t.busy, t.carrier, t.cmdQueue)) =
      some (0x30000000, true, some 5, []) ∧
    after (step (accessed (working tc1 [.nextChar] []) (cmdWrite tc1 5 0x30000000))) (fun t => (t.cmdr, t.carrier, t.cmdQueue)) =
      some (0, some 0, [⟨5, 0x30000000⟩]) := by decide
/-- 20_memory R66: a STATUS access behind the context's own CMD write waits for it; another context's does not. -/
theorem test_program_order :
    after (step (accessed (working tc1 [.act .sclLow {}] []) ⟨0, false, 0x1004, 32, 0⟩)) (fun t => (t.waiting.length, t.hostLog)) =
      some (1, []) ∧
    after (step (accessed (working tc1 [.act .sclLow {}] []) ⟨1, false, 0x1004, 32, 0⟩)) (fun t => (t.waiting.length, t.hostLog)) =
      some (0, [.data 1 0x000000C1]) := by decide
/-- 20_memory R66: the command complete, the access that waited takes effect, and not the one of a context that is still blocked. -/
theorem test_release :
    after (step { start tc1 [quiet] with cmdQueue := [⟨1, 0x90000000⟩], waiting := [⟨1, false, 0x1004, 32, 0⟩, ⟨0, false, 0x1004, 32, 0⟩] })
      (fun t => (t.waiting, t.hostLog, t.busy)) = some ([⟨1, false, 0x1004, 32, 0⟩], [.data 0 0x000000C0], false) := by decide
/-- E12. -/
theorem test_unmapped :
    after (step (accessed (start tc1 []) ⟨0, false, 0x1008, 32, 0⟩)) (·.faults) = some [.unmappedAccess 8 32] ∧
    after (step (accessed (start tc1 []) ⟨0, false, 0x1004, 8, 0⟩)) (·.faults) = some [.unmappedAccess 4 8] := by decide
/-- E7's end: the abort releases SDA; STATUS 0x2E0. -/
theorem test_abort : after (step { working tc1Timeout [.abort] [quiet] with sdaDrv := .low, session := true })
    (fun t => (t.status, t.trace, t.session)) = some (0x000002E0, [d1], false) := by decide
/-- E9: a stalled SDA release is not sensed under TIMEOUT; E7: a stalled SCL release leads to the abort. -/
theorem test_timeout_sensing :
    after (step (working tc1Timeout [.act .sdaRel {}, .act .sclRel {}] [stalled true])) (·.pending) = some [.act .sclRel {}] ∧
    after (step (working tc1Timeout [.act .sclRel {}, .act .sclLow {}] [stalled true])) (·.pending) = some [.abort] := by decide
/-- E10: the two runs that policy NONE admits. -/
theorem test_none_hang :
    after (step (working tc1 [.act .sclRel {}] [stalled true])) (fun t => (t.hung, t.busy)) = some (true, true) ∧
    after (step (working tc1 [.act .sclRel {}] [stalled false])) (fun t => (t.hung, t.busy)) = some (false, false) := by decide
/-- S3 and S2: reset in a session, during a command; the write held on the command completes too and runs nothing (70_reset R201). -/
theorem test_reset :
    after (step { working tc1 [.nextChar] [⟨some .reset, { answering with heldSurvive := true }⟩] with
        session := true, sclDrv := .low, errIll := true, cmdQueue := [⟨3, 0x90000000⟩] })
      (fun t => ((t.status, t.faults, t.hostLog), t.trace, t.cmdQueue, t.carrier)) =
    some ((0x000000C0, [.resetInSession], [.commandDone 0, .commandDone 3]), [], [], none) := by decide

/-- T7's trace, decoded: one unterminated frame (40_bus_transport R118). -/
theorem test_frames_unterminated : decodeFrames (byteActions 0x55) =
    [.unterminated [true, false, true, false, true, false, true, true]] := by decide
/-- T6: an empty frame. -/
theorem test_frames_empty : decodeFrames [d0, c1, d1] = [.empty] := by decide

/-- 30_encoding R90, R91: a line of text, its commands and words (P2's second form). -/
theorem test_assembler : assembleText tc1 [] "CMDS 0xD3, 5 ; shift".toList =
    some [0x10780000, 0x20D30000, 0x20050000, 0x30000000] := by decide
theorem test_assembler_char : assembleText tc1 [] "PUTC 'A'".toList = some [0x60410000] ∧
    assembleText tc1 [("hello".toList, 16)] "PUTS hello".toList = some [0x70000010] := by decide
/-- 30_encoding R90: text glued to a character literal is an error, a label stands for a string address only, and 300 is truncated by no line. -/
theorem test_assembler_errors : assembleText tc1 [] "WRITE 300'A'".toList = none ∧
    assembleText tc1 [("msg".toList, 16)] "SHIFT msg".toList = none ∧
    assembleText tc1 [] "WRITE 300".toList = none ∧ assembleText tc1 [] "PUTS 300".toList = some [0x7000012C] ∧
    assembleText tc1 [] "PUTC ' '".toList = some [0x60200000] := by decide
/-- The lines of P5 that hold a comment alone, and a blank one, give no command and no error. -/
theorem test_assembler_blank : assembleText tc1 [] "; host: read STATUS".toList = some [] ∧ assembleText tc1 [] "  ".toList = some [] := by decide

/-- A store, a removal, a read (20_memory R59). -/
theorem test_memory : Memory.write (Memory.write [] 5 0x41) 3 0x42 = [(3, 0x42), (5, 0x41)] ∧
    Memory.write [(3, 0x42)] 3 0 = [] ∧ Memory.read [(3, 0x42)] 4 = 0 := by decide

/-! ## Witnesses: concrete states and operands that meet the hypotheses of the statements, clause by clause -/

/-- The state in which `presenting` accepts its word. -/
def accepting (p : Params) (w : Word) (n : Nat) : State := (presenting p w n).latch.carry 0

theorem accepts_presenting (p : Params) (w : Word) (n : Nat) : (presenting p w n).Accepts 0 w (accepting p w n) :=
  ⟨rfl, .inr ⟨_, .inl ⟨rfl, rfl, rfl⟩, rfl, rfl⟩⟩

theorem calm_accepting (p : Params) (w : Word) {n k : Nat} (h : k ≤ n) : (accepting p w n).Calm k :=
  ⟨rfl, State.quiet_of_replicate (m := n) (i := quiet) rfl h rfl rfl⟩

theorem witness_EncodeInvertsDecode : decode 0x507F0003 = .ok (.setcur 127 3) := by decide

theorem witness_OpcodeRowsDisjoint : ∃ r ∈ opcodeMap, ∃ q ∈ opcodeMap, r.hits 0x10FF0000 = true ∧ q.hits 0x10FF0000 = true :=
  ⟨_, List.mem_cons_self, _, List.mem_cons_self, by decide, by decide⟩

/-- OP 0x0, 0xA and 0xF; and an idle block that is about to accept zero. -/
theorem witness_ReservedOpcodeIsIllegal : opField 0x0FFFFFFF = 0x0 ∧ 0xA ≤ opField 0xA0000000 ∧ 0xA ≤ opField 0xFFFFFFFF ∧
    (presenting tc1 0x00000000 0).Accepts 0 0x00000000 (accepting tc1 0x00000000 0) :=
  ⟨by decide, by decide, by decide, accepts_presenting _ _ _⟩

/-- Bit 0 and bit 27 of the CLOSE row, bit 16 of the PUTS row. -/
theorem witness_ReservedZeroBitIsIllegal :
    (∃ r ∈ opcodeMap, opField 0x30000001 = opField r.pattern ∧
      r.mask.getLsbD 0 = true ∧ r.pattern.getLsbD 0 = false ∧ (0x30000001 : Word).getLsbD 0 = true) ∧
    (∃ r ∈ opcodeMap, opField 0x38000000 = opField r.pattern ∧
      r.mask.getLsbD 27 = true ∧ r.pattern.getLsbD 27 = false ∧ (0x38000000 : Word).getLsbD 27 = true) ∧
    (∃ r ∈ opcodeMap, opField 0x70010000 = opField r.pattern ∧
      r.mask.getLsbD 16 = true ∧ r.pattern.getLsbD 16 = false ∧ (0x70010000 : Word).getLsbD 16 = true) :=
  ⟨⟨⟨.closeBus, 0x30000000, 0xFFFFFFFF⟩, by decide⟩, ⟨⟨.closeBus, 0x30000000, 0xFFFFFFFF⟩, by decide⟩,
    ⟨⟨.puts, 0x70000000, 0xFFFF0000⟩, by decide⟩⟩

/-- A word presented to an idle block, one that waited, and the oldest of two held ones. -/
theorem witness_StepRunsDecodedInstruction : decode 0x80050000 = .ok (.shift 5) ∧
    (∃ s', (presenting tc1 0x80050000 0).Accepts 0 0x80050000 s') ∧
    (∃ s', ({ start tc1 [quiet] with waiting := [cmdWrite tc1 2 0x80050000] } : State).Accepts 2 0x80050000 s') ∧
    (∃ s', (idleWith tc1 [⟨1, 0x80050000⟩, ⟨2, 0x90000000⟩] 1).Accepts 1 0x80050000 s') :=
  ⟨by decide, ⟨_, accepts_presenting _ _ _⟩, ⟨_, rfl, .inr ⟨_, .inr ⟨rfl, rfl, rfl⟩, rfl, rfl⟩⟩,
    ⟨_, rfl, .inl ⟨_, rfl, rfl, rfl, rfl⟩⟩⟩

/-- A reserved opcode, and a reserved-zero bit. -/
theorem witness_IllegalWordRaises :
    ((presenting tc1 0xA0000000 0).Accepts 0 0xA0000000 (accepting tc1 0xA0000000 0) ∧ (presenting tc1 0xA0000000 0).pending = [] ∧
      ∀ r ∈ opcodeMap, (0xA0000000 : Word) &&& r.mask ≠ r.pattern) ∧
    ((presenting tc1 0x31000000 0).Accepts 0 0x31000000 (accepting tc1 0x31000000 0) ∧ (presenting tc1 0x31000000 0).pending = [] ∧
      ∀ r ∈ opcodeMap, (0x31000000 : Word) &&& r.mask ≠ r.pattern) :=
  ⟨⟨accepts_presenting _ _ _, rfl, by decide⟩, ⟨accepts_presenting _ _ _, rfl, by decide⟩⟩

/-- The codes at the ends of the range, 32 and 126, and those beside it, 31 and 127, with and without HARDEN_GLYPH. -/
theorem witness_PutcExpands : (start tc1 []).cfg.legal = true ∧ (start tc1Hard []).cfg.legal = true ∧
    inRange tc1 32 = true ∧ inRange tc1 126 = true ∧
    (inRange tc1 31 = false ∧ inRange tc1 127 = false ∧ (start tc1 []).cfg.hardenGlyph = false) ∧
    (inRange tc1Hard 31 = false ∧ inRange tc1Hard 127 = false ∧ (start tc1Hard []).cfg.hardenGlyph = true) := by decide

theorem witness_PutsExpands : (start tc1 []).cfg.hardenGlyph = false ∧ (start tc1Hard []).cfg.hardenGlyph = true := by decide

/-- What the statements about a command's run ask of the state `s` and of the `s'` in which it accepts `i`: here of `presenting`. -/
theorem presenting_meets (p : Params) (i : Instr) (n : Nat) :
    (presenting p (encode i) n).Accepts 0 (encode i) (accepting p (encode i) n) ∧ (accepting p (encode i) n).hung = false ∧
    (accepting p (encode i) n).cfg = p ∧ (accepting p (encode i) n).Calm n :=
  ⟨accepts_presenting _ _ _, rfl, rfl, calm_accepting _ _ (Nat.le_refl n)⟩

/-- The hypotheses of a command's run, with the number of calm steps it needs in its build. -/
def Runs (i : Instr) (count : Params → Nat) : Prop :=
  ∃ s s' : State, s.Accepts 0 (encode i) s' ∧ s'.hung = false ∧ s'.cfg.legal = true ∧ s'.Calm (count s'.cfg)

theorem runs (i : Instr) (count : Params → Nat) : Runs i count :=
  ⟨presenting tc1 (encode i) (count tc1), accepting tc1 (encode i) (count tc1), (presenting_meets _ _ _).1, rfl, test_wf_config,
    (presenting_meets _ _ _).2.2.2⟩

theorem witness_OpenRunsToItsEnd : Runs (.openBus 0xFF) fun _ => 29 + popcount 0xFF := runs _ _

theorem witness_WriteRunsToItsEnd : Runs (.writeByte 0) fun _ => 27 + popcount 0 := runs _ _

theorem witness_CloseRunsToItsEnd : Runs .closeBus fun _ => 3 := runs _ _

theorem witness_InitRunsToItsEnd : Runs .init fun p => sessionActionCount p.addrCmd p.initSeq := runs _ _

theorem witness_SetcurRunsToItsEnd : Runs (.setcur 255 255) fun p => sessionActionCount p.addrCmd (setcurPayload p 255 255) := runs _ _

theorem witness_ShiftRunsToItsEnd : Runs (.shift 255) fun p => sessionActionCount p.addrCmd [p.shiftCmd, 255] := runs _ _

theorem witness_ClearRunsToItsEnd : Runs .clear fun p =>
    sessionActionCount p.addrCmd [0x00, 0x10, p.pageMarker] + (5 + byteActionCount p.addrData + 27 * (128 * p.pageCount)) +
      sessionActionCount p.addrCmd [p.shiftCmd, 0x00] := runs _ _

/-- In range at 126; out of range at 127, without HARDEN_GLYPH. -/
theorem witness_PutcRunsToItsEnd :
    (∃ s s' : State, s.Accepts 0 (encode (.putc 126)) s' ∧ s'.hung = false ∧ s'.cfg.legal = true ∧ inRange s'.cfg 126 = true ∧
      s'.Calm (sessionActionCount s'.cfg.addrData (0x00 :: tableGlyph s'.cfg 126))) ∧
    (∃ s s' : State, s.Accepts 0 (encode (.putc 127)) s' ∧ s'.hung = false ∧ s'.cfg.legal = true ∧ inRange s'.cfg 127 = false ∧
      s'.cfg.hardenGlyph = false ∧ s'.Calm (sessionActionCount s'.cfg.addrData (0x00 :: s'.inp.draws.glyph.toList))) :=
  ⟨⟨_, accepting tc1 (encode (.putc 126)) (sessionActionCount tc1.addrData (0x00 :: tableGlyph tc1 126)), (presenting_meets _ _ _).1, rfl,
      test_wf_config, by decide, (presenting_meets _ _ _).2.2.2⟩,
    ⟨_, accepting tc1 (encode (.putc 127)) (sessionActionCount tc1.addrData (0x00 :: answering.glyph.toList)), (presenting_meets _ _ _).1,
      rfl, test_wf_config, by decide, rfl, (presenting_meets _ _ _).2.2.2⟩⟩

/-- The steps a PUTS of `n` characters takes. -/
def putsSteps (p : Params) (a : StrAddr) (n : Nat) : Nat :=
  (if p.hardenGlyph then n + 1 else 0) + (n + 1) +
    sessionActionCount p.addrData ((strChars p a n).flatMap fun c => 0x00 :: tableGlyph p c)

/-- The hypotheses of `PutsRunsToItsEnd` at one build and one string. -/
def PutsHypotheses (p : Params) (a : StrAddr) (n : Nat) : Prop :=
  ∃ s s' : State, s'.cfg = p ∧ s.Accepts 0 (encode (.puts a)) s' ∧ s'.hung = false ∧ s'.cfg.legal = true ∧ isString s'.cfg a n = true ∧
    (∀ c ∈ strChars s'.cfg a n, inRange s'.cfg c = true) ∧ s'.Calm (putsSteps s'.cfg a n)

theorem putsHypotheses_of {p : Params} {a : StrAddr} {n : Nat} (hl : p.legal = true) (hs : isString p a n = true)
    (hr : ∀ c ∈ strChars p a n, inRange p c = true) : PutsHypotheses p a n :=
  ⟨_, accepting p (encode (.puts a)) (putsSteps p a n), rfl, accepts_presenting _ _ _, rfl, hl, hs, hr, (presenting_meets _ _ _).2.2.2⟩

/-- The string of two characters across the wrap at 0xFFFF and the empty one at 0x0012, with and without the pre-scan. -/
theorem witness_PutsRunsToItsEnd : PutsHypotheses tc1 0xFFFF 2 ∧ PutsHypotheses tc1 0x0012 0 ∧ PutsHypotheses tc1Hard 0xFFFF 2 ∧
    PutsHypotheses tc1Hard 0x0012 0 :=
  ⟨putsHypotheses_of (by decide) (by decide) (by decide), putsHypotheses_of (by decide) (by decide) (by decide),
    putsHypotheses_of (by decide) (by decide) (by decide), putsHypotheses_of (by decide) (by decide) (by decide)⟩

/-- A string with an out-of-range character without HARDEN_GLYPH, and an in-range one with it. -/
theorem witness_PutsSendsOneSessionForAnyString :
    (∃ s s' : State, s.Accepts 0 (encode (.puts 0x0020)) s' ∧ s'.hung = false ∧ s'.cfg.legal = true ∧ isString s'.cfg 0x0020 2 = true ∧
      s'.cfg.hardenGlyph = false ∧ ¬(∀ c ∈ strChars s'.cfg 0x0020 2, inRange s'.cfg c = true) ∧
      s'.Calm ((2 + 1) + (2 + 1) + (40 + 210 * 2))) ∧
    (∃ s s' : State, s.Accepts 0 (encode (.puts 0x0010)) s' ∧ s'.hung = false ∧ s'.cfg.legal = true ∧ isString s'.cfg 0x0010 2 = true ∧
      s'.cfg.hardenGlyph = true ∧ (∀ c ∈ strChars s'.cfg 0x0010 2, inRange s'.cfg c = true) ∧
      s'.Calm ((2 + 1) + (2 + 1) + (40 + 210 * 2))) :=
  ⟨⟨_, accepting tc1 (encode (.puts 0x0020)) 466, (presenting_meets _ _ _).1, rfl, test_wf_config, by decide, rfl, by decide,
      (presenting_meets _ _ _).2.2.2⟩,
    ⟨_, accepting tc1Hard (encode (.puts 0x0010)) 466, (presenting_meets _ _ _).1, rfl, by decide, by decide, rfl, by decide,
      (presenting_meets _ _ _).2.2.2⟩⟩

theorem witness_HardenedPutsRejectsString : ∃ s s' : State, s.Accepts 0 (encode (.puts 0x0020)) s' ∧ s'.hung = false ∧
    s'.cfg.hardenGlyph = true ∧ (∀ c ∈ strChars s'.cfg 0x0020 1, inRange s'.cfg c = true) ∧
    strRead s'.cfg (0x0020 + BitVec.ofNat 16 1) ≠ Config.sentinel ∧ inRange s'.cfg (strRead s'.cfg (0x0020 + BitVec.ofNat 16 1)) = false ∧
    (∃ b, strRead s'.cfg b = Config.sentinel) ∧ s'.Calm (1 + 1) :=
  ⟨_, accepting tc1Hard (encode (.puts 0x0020)) 2, (presenting_meets _ _ _).1, rfl, by decide, by decide, by decide, by decide,
    ⟨0x0012, by decide⟩, (presenting_meets _ _ _).2.2.2⟩

/-- A string ROM that holds the byte `c` at every address. -/
def fullRom (c : Byte) (n : Nat) : Nat → List Host.Cell
  | 0 => []
  | k + 1 => (n, c) :: fullRom c (n + 1) k

theorem fullRom_read (c : Byte) : ∀ (k n x : Nat), n ≤ x → x < n + k → Memory.read (fullRom c n k) x = c
  | 0, n, x, h1, h2 => by omega
  | k + 1, n, x, h1, h2 => by
    simp only [fullRom, Memory.read]
    split
    · rfl
    · exact fullRom_read c k (n + 1) x (by omega) (by omega)

theorem fullRom_wf {c : Byte} (hc : c ≠ 0x00) : ∀ (k n : Nat), n + k ≤ 65536 → Memory.wfFrom n (fullRom c n k) = true
  | 0, _, _ => rfl
  | k + 1, n, h => by
    have ih := fullRom_wf hc k (n + 1) (by omega)
    have hn : n < 65536 := by omega
    simpa [fullRom, Memory.wfFrom, ih, hn] using hc

/-- A build whose string ROM holds `c` at every address. -/
def endless (c : Byte) (p : Params) : Params := { p with strRom := fullRom c 0 65536 }

theorem endless_read (c : Byte) (p : Params) (b : StrAddr) : strRead (endless c p) b = c :=
  fullRom_read c 65536 0 b.toNat (Nat.zero_le _) (by have := b.isLt; omega)

/-- With and without the pre-scan, under NONE and under TIMEOUT without a stall, every character in range or none, over any number of calm steps. -/
theorem witness_PutsWithoutSentinelNeverEnds (n : Nat) : ∀ c : Byte, c = 0x41 ∨ c = 0x7F → ∀ p ∈ [tc1, tc1Hard, tc1Timeout],
    ∃ s s' : State, s'.cfg = endless c p ∧ s.Accepts 0 (encode (.puts 0x1234)) s' ∧ s'.hung = false ∧
    (∀ b, strRead s'.cfg b ≠ Config.sentinel) ∧ s'.NoReset n ∧ (∀ k < n, (s'.inputAt k).draws.stall = false) ∧ s'.Calm n := by
  intro c hcc p _
  have hc := (presenting_meets (endless c p) (.puts 0x1234) n).2.2.2
  refine ⟨_, accepting (endless c p) (encode (.puts 0x1234)) n, rfl, (presenting_meets _ _ _).1, rfl, ?_, ?_, fun k hk => (hc.2 k hk).2, hc⟩
  · intro b
    show strRead (endless c p) b ≠ _
    rw [endless_read]
    rcases hcc with rfl | rfl <;> decide
  · intro k hk
    rw [(hc.2 k hk).1]
    decide

/-- The two policies of the clause, the two builds, and a ROM whose characters are all out of range. -/
theorem witness_PutsWithoutSentinel_builds : tc1.stallPolicy = .none ∧ tc1Timeout.stallPolicy = .timeout ∧ tc1.hardenGlyph = false ∧
    tc1Hard.hardenGlyph = true ∧ inRange tc1Hard 0x41 = true ∧ inRange tc1Hard 0x7F = false ∧ Memory.wf (endless 0x7F tc1Hard).strRom = true :=
  ⟨rfl, rfl, rfl, rfl, by decide, by decide, fullRom_wf (by decide) _ _ (Nat.le_refl _)⟩

/-- X12: where the ROM has a sentinel, an out-of-range character is raised. -/
theorem test_scan_raises : after (step { working tc1Hard [.scan 0x0020] [quiet] with sptr := 0x0021 })
    (fun t => (t.errOor, t.busy, t.pending, t.hostLog)) = some (true, false, [], [.commandDone 0]) := by decide

/-- 42_text_output R152: where no address holds the sentinel, the pre-scan passes over a character out of range, and wraps. -/
theorem test_scan_forever : after (step { working (endless 0x7F tc1Hard) [.scan 0x1234] [quiet] with sptr := 0xFFFF })
    (fun t => (t.sptr, t.errOor, t.busy, t.pending)) = some (0x0000, false, true, [.scan 0x1234]) := by
  have hr := endless_read 0x7F tc1Hard
  have hs : hasSentinel (endless 0x7F tc1Hard) = false := by
    rw [Bool.eq_false_iff, ne_eq, hasSentinel_iff]
    rintro ⟨a, h⟩
    rw [hr] at h
    exact absurd h (by decide)
  have hm : ({ working (endless 0x7F tc1Hard) [.scan 0x1234] [quiet] with sptr := 0xFFFF } : State).EngineMoves := ⟨rfl, rfl, rfl, rfl⟩
  rw [step_perform hm (m := .scan 0x1234) (ms := []) rfl]
  rcases scanStep_cases (({ working (endless 0x7F tc1Hard) [.scan 0x1234] [quiet] with sptr := 0xFFFF } : State).latch.load []) 0x1234 with
    ⟨h, -⟩ | ⟨-, -, h⟩ | ⟨-, -, h, -⟩
  · exact absurd ((hr _).symm.trans h) (by decide)
  · rw [State.perform, h]
    rfl
  · exact absurd (hs.symm.trans h) (by decide)

/-- The pre-scan at a character in range and at one out of range, in ROMs without a sentinel; and over two steps with an access to come, and calm. -/
theorem witness_SentinelFreeScanNeverEnds : ∀ c : Byte, c = 0x41 ∨ c = 0x7F →
    (∃ s : State, s.EngineMoves ∧ s.pending = [.scan 0] ∧ s.hung = false ∧ (∀ b, strRead s.cfg b ≠ Config.sentinel) ∧ s.Calm 1) ∧
    (∃ s : State, s.busy = true ∧ s.hung = false ∧ s.pending = [.scan 0] ∧ (∀ b, strRead s.cfg b ≠ Config.sentinel) ∧ s.NoReset 2 ∧
      (s.inputAt 0).event.isSome = true) := by
  intro c hc
  have hs : ∀ b, strRead (endless c tc1Hard) b ≠ Config.sentinel := by
    intro b
    rw [endless_read]
    rcases hc with rfl | rfl <;> decide
  refine ⟨⟨working (endless c tc1Hard) [.scan 0] [quiet], ⟨rfl, rfl, rfl, rfl⟩, rfl, rfl, hs, rfl,
      State.quiet_of_replicate (m := 1) (i := quiet) rfl (Nat.le_refl 1) rfl rfl⟩,
    ⟨working (endless c tc1Hard) [.scan 0] [⟨some (.access ⟨1, false, 0x1004, 32, 0⟩), answering⟩, quiet], rfl, rfl, rfl, hs, ?_, rfl⟩⟩
  intro k hk h
  match k, hk with
  | 0, _ => cases h
  | 1, _ => cases h

/-- P2 of 95_test_vectors, with a STATUS read of the same host after it. -/
theorem witness_RawSessionRunsAsOneSession : ∃ s : State, s.busy = false ∧ s.hung = false ∧ s.session = false ∧ s.carrier = none ∧
    s.cmdQueue = [] ∧ s.waiting = cmdWrites s.cfg 0 (sendWords 0x78 [0xD3, 0x05]) ++ [⟨0, false, 0x1004, 32, 0⟩] ∧
    s.Quiet (2 + 2 + sessionActionCount 0x78 [0xD3, 0x05]) :=
  ⟨{ start tc1 (List.replicate (2 + 2 + sessionActionCount 0x78 [0xD3, 0x05]) quiet) with
      waiting := cmdWrites tc1 0 (sendWords 0x78 [0xD3, 0x05]) ++ [⟨0, false, 0x1004, 32, 0⟩] }, rfl, rfl, rfl, rfl, rfl, rfl,
    State.quiet_of_replicate rfl (Nat.le_refl _) rfl rfl⟩

/-- Each of the four actions. -/
theorem witness_LineActionIsOneStep : ∀ a : LineAction, (working tc1 [.act a {}] [quiet]).EngineMoves ∧
    (working tc1 [.act a {}] [quiet]).pending = .act a {} :: [] := fun _ => ⟨⟨rfl, rfl, rfl, rfl⟩, rfl⟩

theorem witness_ActionCounts : tc1.pageCount = 4 ∧ ({ tc1 with pageCount := 8, pageMask := 0x07 } : Params).pageCount = 8 := ⟨rfl, rfl⟩

/-- No stall; a stall at an action that is no release; a stall that goes on; one that hangs; the two under TIMEOUT. -/
theorem witness_StallHandling :
    ((working tc1 [.act .sclRel {}] [quiet]).EngineMoves ∧ ((working tc1 [.act .sclRel {}] [quiet]).inputAt 0).draws.stall = false) ∧
    ((working tc1 [.act .sclLow {}] [stalled true]).EngineMoves ∧ ((working tc1 [.act .sclLow {}] [stalled true]).inputAt 0).draws.stall = true) ∧
    ((working tc1 [.act .sdaRel {}] [stalled false]).EngineMoves ∧ tc1.stallPolicy = .none ∧
      ((working tc1 [.act .sdaRel {}] [stalled false]).inputAt 0).draws.hang = false) ∧
    ((working tc1 [.act .sclRel {}] [stalled true]).EngineMoves ∧ ((working tc1 [.act .sclRel {}] [stalled true]).inputAt 0).draws.stall = true ∧
      ((working tc1 [.act .sclRel {}] [stalled true]).inputAt 0).draws.hang = true) ∧
    ((working tc1Timeout [.act .sdaRel {}] [stalled true]).EngineMoves ∧ tc1Timeout.stallPolicy = .timeout) ∧
    ((working tc1Timeout [.act .sclRel {}] [stalled true]).EngineMoves ∧
      ((working tc1Timeout [.act .sclRel {}] [stalled true]).inputAt 0).draws.stall = true) :=
  ⟨⟨⟨rfl, rfl, rfl, rfl⟩, rfl⟩, ⟨⟨rfl, rfl, rfl, rfl⟩, rfl⟩, ⟨⟨rfl, rfl, rfl, rfl⟩, rfl, rfl⟩, ⟨⟨rfl, rfl, rfl, rfl⟩, rfl, rfl⟩, ⟨⟨rfl, rfl, rfl, rfl⟩, rfl⟩,
    ⟨⟨rfl, rfl, rfl, rfl⟩, rfl⟩⟩

/-- A read of STATUS at HOST_BASE + 4. -/
def statusRead : HostAccess := ⟨0, false, 0x1004, 32, 0⟩

/-- A hung block to which a host access comes. -/
theorem witness_HungUntilReset : ∃ s : State, s.hung = true ∧ s.busy = true ∧ s.NoReset 2 :=
  ⟨{ working tc1 [.act .sclLow {}] [⟨some (.access statusRead), answering⟩, quiet] with hung := true }, rfl, rfl, by unfold State.NoReset; decide⟩

theorem witness_TimeoutAborts : (working tc1Timeout [.act .sclRel {}, .act .sclLow {}] [stalled true, quiet]).EngineMoves ∧
    tc1Timeout.stallPolicy = .timeout ∧
    ((working tc1Timeout [.act .sclRel {}, .act .sclLow {}] [stalled true, quiet]).inputAt 0).draws.stall = true ∧
    ((working tc1Timeout [.act .sclRel {}, .act .sclLow {}] [stalled true, quiet]).inputAt 1).event = none :=
  ⟨⟨rfl, rfl, rfl, rfl⟩, rfl, rfl, rfl⟩

/-- At an in-range character, with the string pointer at its end, and at an out-of-range one. -/
theorem witness_PutsSendsOneCharacter :
    (({ working tc1 [.nextChar] [quiet] with sptr := 0xFFFF } : State).EngineMoves ∧ tc1.legal = true ∧
      strRead tc1 0xFFFF ≠ Config.sentinel ∧ inRange tc1 (strRead tc1 0xFFFF) = true) ∧
    (({ working tc1 [.nextChar] [quiet] with sptr := 0x0021 } : State).EngineMoves ∧
      strRead tc1 0x0021 ≠ Config.sentinel ∧ inRange tc1 (strRead tc1 0x0021) = false) :=
  ⟨⟨⟨rfl, rfl, rfl, rfl⟩, test_wf_config, by decide, by decide⟩, ⟨⟨rfl, rfl, rfl, rfl⟩, by decide, by decide⟩⟩

/-- All three error bits set, and a step that ends a command; and a STATUS read, which is no STATUS write. -/
theorem witness_ErrorBitsAreSticky :
    (∃ s t : State, step s = .next t ∧ (s.inputAt 0).event ≠ some .reset ∧ (∀ a s', ¬s.Serves a s') ∧
      s.errIll = true ∧ s.errOor = true ∧ s.errTimeout = true) ∧
    (∃ s t : State, step s = .next t ∧ (s.inputAt 0).event ≠ some .reset ∧
      (∀ a s', s.Serves a s' → ¬(a.write = true ∧ a.width = 32 ∧ a.addr = s.cfg.hostBase + 4)) ∧ s.errOor = true) := by
  refine ⟨⟨{ working tc1 [.act .sclRel {}] [quiet] with errIll := true, errOor := true, errTimeout := true }, _, rfl, by decide, ?_,
    rfl, rfl, rfl⟩, ⟨accessed { start tc1 [] with errOor := true } statusRead, _, rfl, by decide, ?_, rfl⟩⟩
  · rintro a s' (⟨h, -⟩ | ⟨-, h, -⟩)
    · exact absurd h (by simp [State.inputAt, working, start, quiet])
    · exact absurd (show (none : Option HostAccess) = some a from h) (by simp)
  · rintro a s' (⟨h, -⟩ | ⟨h, -, -⟩) ⟨hw, -, -⟩
    · have h' : some (Event.access statusRead) = some (.access a) := h
      cases h'
      cases hw
    · exact absurd (show some (Event.access statusRead) = none from h) (by simp)

/-- An idle block serves an access that comes; a busy one serves another context's; an access that waited is served. -/
theorem serves_accessed (s : State) (a : HostAccess) (h : s.blocked a.ctx = false) : (accessed s a).Serves a (accessed s a).latch :=
  .inl ⟨rfl, h, rfl⟩

/-- A read and a write of STATUS, in an idle block, in a busy one from another context, and from among those that waited. -/
theorem witness_StatusAccess :
    (∃ s s' : State, s.Serves statusRead s' ∧ statusRead.width = 32 ∧ statusRead.addr = s.cfg.hostBase + 4 ∧ statusRead.write = false) ∧
    (∃ s s' : State, s.Serves { statusRead with ctx := 1, write := true } s' ∧ s.busy = true) ∧
    (∃ s s' : State, s.Serves { statusRead with write := true } s' ∧ s.waiting = [{ statusRead with write := true }]) :=
  ⟨⟨_, _, serves_accessed (start tc1 []) statusRead rfl, rfl, rfl, rfl⟩,
    ⟨_, _, serves_accessed (working tc1 [.nextChar] []) { statusRead with ctx := 1, write := true } rfl, rfl⟩,
    ⟨{ start tc1 [quiet] with waiting := [{ statusRead with write := true }] }, _, .inr ⟨rfl, rfl, rfl⟩, rfl⟩⟩

/-- A read of CMD; a write to an idle block, to a busy one, and to an idle one on which an older write is held. -/
def cmdRead : HostAccess := ⟨7, false, 0x1000, 32, 0x90000000⟩

theorem witness_CmdAccess :
    (∃ s s' : State, s.Serves cmdRead s' ∧ cmdRead.width = 32 ∧ cmdRead.addr = s.cfg.hostBase ∧ cmdRead.write = false) ∧
    (∃ s s' : State, s.Serves { cmdRead with write := true } s' ∧ s.cfg.hostBase = cmdRead.addr ∧ s.busy = false ∧ s.cmdQueue = []) ∧
    (∃ s s' : State, s.Serves { cmdRead with write := true } s' ∧ s.cfg.hostBase = cmdRead.addr ∧ s.busy = true) ∧
    (∃ s s' : State, s.Serves { cmdRead with write := true } s' ∧ s.cfg.hostBase = cmdRead.addr ∧ s.busy = false ∧ s.cmdQueue ≠ []) :=
  ⟨⟨_, _, serves_accessed (start tc1 []) cmdRead rfl, rfl, rfl, rfl⟩,
    ⟨_, _, serves_accessed (start tc1 []) { cmdRead with write := true } rfl, rfl, rfl, rfl⟩,
    ⟨_, _, serves_accessed (working tc1 [.nextChar] []) { cmdRead with write := true } rfl, rfl, rfl⟩,
    ⟨_, _, serves_accessed (idleWith tc1 [⟨1, 0x90000000⟩] 0) { cmdRead with write := true } rfl, rfl, rfl, by decide⟩⟩

/-- A busy block with a write held to which another comes, and an idle one that accepts. -/
theorem witness_BusyBlockHoldsWrites :
    (∃ s t : State, (s.inputAt 0).event ≠ some .reset ∧ s.busy = true ∧ step s = .next t ∧ s.cmdQueue = [⟨1, 0x90000000⟩] ∧
      t.cmdQueue = [⟨1, 0x90000000⟩, ⟨7, 0x90000000⟩]) ∧
    (∃ s t : State, step s = .next t ∧ s.busy = false ∧ t.busy = true) :=
  ⟨⟨accessed { working tc1 [.act .sclRel {}] [] with cmdQueue := [⟨1, 0x90000000⟩] } { cmdRead with write := true }, _, by decide, rfl, rfl,
      rfl, rfl⟩,
    ⟨presenting tc1 0x30000000 0, _, rfl, rfl, rfl⟩⟩

/-- A block in the middle of a CLOSE, which context 0 wrote, with a STATUS read of context 0 waiting and one more coming. -/
def ordered : State :=
  { working tc1 [.act .sdaRel { session := some false }] [⟨some (.access statusRead), answering⟩] with
    sdaDrv := .low, session := true, waiting := [statusRead] }

/-- An access that must wait on its own CMD write, and one that must wait behind an older access; a step that completes a command; a step that
answers a load. -/
theorem witness_HostAccessesKeepProgramOrder :
    ((ordered.inputAt 0).event = some (.access statusRead) ∧ ordered.inFlight statusRead.ctx = true) ∧
    (∃ s : State, (s.inputAt 0).event = some (.access statusRead) ∧ s.inFlight 0 = false ∧ ∃ b ∈ s.waiting, b.ctx = statusRead.ctx) ∧
    (∃ s s' : State, s.Serves statusRead s' ∧ s'.waiting = s.waiting) ∧
    (∃ s s' : State, s.Serves statusRead s' ∧ s.waiting = [] ++ statusRead :: [{ statusRead with ctx := 1 }] ∧
      s'.waiting = [{ statusRead with ctx := 1 }]) ∧
    (∃ s t : State, step s = .next t ∧ t.hostLog = s.hostLog ++ [.commandDone 0]) ∧
    (∃ s t : State, step s = .next t ∧ t.hostLog = s.hostLog ++ [.data 0 0x000000C0]) :=
  ⟨⟨rfl, rfl⟩,
    ⟨accessed { start tc1 [] with waiting := [statusRead] } statusRead, rfl, rfl, statusRead, List.mem_singleton.mpr rfl, rfl⟩,
    ⟨_, _, serves_accessed (start tc1 []) statusRead rfl, rfl⟩,
    ⟨{ start tc1 [quiet] with waiting := [statusRead, { statusRead with ctx := 1 }] }, _, .inr ⟨rfl, rfl, rfl⟩, rfl, rfl⟩,
    ⟨{ ordered with env := [quiet] }, _, rfl, rfl⟩, ⟨accessed (start tc1 []) statusRead, _, rfl, by decide⟩⟩

/-- Just past the window, just before it, and a narrow access inside it. -/
theorem witness_UnmappedAccessHasNoEffect :
    ∀ a ∈ [(⟨0, false, 0x1008, 32, 0⟩ : HostAccess), ⟨0, true, 0x0FFC, 32, 0⟩, ⟨0, false, 0x1004, 8, 0⟩, ⟨0, true, 0x1000, 64, 0⟩],
      (accessed (start tc1 []) a).Serves a (accessed (start tc1 []) a).latch ∧
      (a.width ≠ 32 ∨ (a.addr ≠ tc1.hostBase ∧ a.addr ≠ tc1.hostBase + 4)) := by
  intro a ha
  exact ⟨.inl ⟨rfl, rfl, rfl⟩, by revert a; decide⟩

/-- Reset with a session open in a busy, hung block with a write held; of an idle one with a write held, either way; with both lines low. -/
theorem witness_ResetEffect :
    (∃ s : State, (s.inputAt 0).event = some .reset ∧ s.busy = true ∧ s.hung = true ∧ s.session = true ∧ s.cmdQueue ≠ []) ∧
    (∃ s t : State, (s.inputAt 0).event = some .reset ∧ s.busy = false ∧ s.session = false ∧ step s = .next t ∧ t.cmdQueue = s.cmdQueue ∧
      s.cmdQueue ≠ []) ∧
    (∃ s t : State, (s.inputAt 0).event = some .reset ∧ s.busy = false ∧ step s = .next t ∧ t.cmdQueue = [] ∧ s.cmdQueue ≠ []) ∧
    (∃ s t : State, (s.inputAt 0).event = some .reset ∧ step s = .next t ∧ t.riseOrder = some .sclFirst) :=
  ⟨⟨{ working tc1 [.act .sclLow {}] [⟨some .reset, answering⟩] with hung := true, session := true, cmdQueue := [⟨1, 0x90000000⟩] }, rfl, rfl,
      rfl, rfl, by decide⟩,
    ⟨{ start tc1 [⟨some .reset, { answering with heldSurvive := true }⟩] with cmdQueue := [⟨1, 0x90000000⟩] }, _, rfl, rfl, rfl, rfl, rfl,
      by decide⟩,
    ⟨{ start tc1 [⟨some .reset, { answering with heldSurvive := false }⟩] with cmdQueue := [⟨1, 0x90000000⟩] }, _, rfl, rfl, rfl, rfl,
      by decide⟩,
    ⟨{ start tc1 [⟨some .reset, { answering with sdaRisesFirst := false }⟩] with sdaDrv := .low, sclDrv := .low }, _, rfl, rfl, rfl⟩⟩

/-- A block in the middle of SHIFT 5 meets the control invariant. -/
theorem witness_inv : (working tc1 (shiftExpansion tc1 5) [quiet]).Inv where
  idle := by intro h; exact absurd h (by decide)
  working := by intro _ _; decide
  carried := rfl
  oneWrite := by decide
  legal := test_wf_config
  faults := by decide
  shaped := by decide

theorem witness_StepKeepsControlInvariant : ∃ s t : State, s.Inv ∧ step s = .next t ∧ t.trace ≠ s.trace :=
  ⟨working tc1 (shiftExpansion tc1 5) [quiet], _, witness_inv, rfl, by decide⟩

/-- A block that is about to end a CLOSE keeps the discipline. -/
def closing : State := { working tc1 [.act .sdaRel { session := some false }] [quiet] with sdaDrv := .low, session := true }

theorem closing_inv : closing.Inv where
  idle := by intro h; exact absurd h (by decide)
  working := by intro _ _; decide
  carried := rfl
  oneWrite := by decide
  legal := test_wf_config
  faults := by decide
  shaped := by decide

theorem witness_StepKeepsDiscipline : ∃ s t : State, s.Inv ∧ s.Disciplined ∧ step s = .next t ∧ s.faults = [] :=
  ⟨closing, _, closing_inv, fun _ => .inl rfl, rfl, rfl⟩

theorem witness_GoodStatesHaveCoherentLines :
    ∃ s t : State, s.Inv ∧ s.Disciplined ∧ Host.Core.run Sys2Proof.core 1 s = .next t ∧ t.Good :=
  ⟨closing, _, closing_inv, fun _ => .inl rfl, run_succ 0 (s := closing) rfl, ⟨rfl, rfl⟩⟩

theorem witness_ConfigurationIsConstant : ∃ s t : State, Host.Core.run Sys2Proof.core 1 s = .next t ∧ t.trace = [.sdaRel] :=
  ⟨closing, _, run_succ 0 (s := closing) rfl, rfl⟩

/-- A fault recorded, and a reset. -/
theorem witness_FaultsAreNeverCleared :
    ∃ s t : State, Host.Core.run Sys2Proof.core 1 s = .next t ∧ .sessionDiscipline .openBus ∈ s.faults ∧ (s.inputAt 0).event = some .reset :=
  ⟨{ start tc1 [⟨some .reset, answering⟩] with faults := [.sessionDiscipline .openBus] }, _, run_succ 0 rfl, by decide, rfl⟩

/-- SESSION rises, falls, and falls at reset. -/
theorem witness_SessionChangesOnlyWithItsAction :
    (∃ s t : State, s.Inv ∧ step s = .next t ∧ s.session = false ∧ t.session = true) ∧
    (∃ s t : State, s.Inv ∧ step s = .next t ∧ s.session = true ∧ t.session = false) ∧
    (∃ s t : State, s.Inv ∧ step s = .next t ∧ (s.inputAt 0).event = some .reset ∧ t.session ≠ s.session) :=
  ⟨⟨working tc1 [.act .sclLow { session := some true }] [quiet], _,
      ⟨by intro h; exact absurd h (by decide), by intro _ _; decide, rfl, by decide, test_wf_config, by decide, by decide⟩, rfl, rfl, rfl⟩,
    ⟨closing, _, closing_inv, rfl, rfl, rfl⟩,
    ⟨{ closing with env := [⟨some .reset, answering⟩] }, _,
      ⟨closing_inv.idle, closing_inv.working, closing_inv.carried, closing_inv.oneWrite, closing_inv.legal, closing_inv.faults, closing_inv.shaped⟩, rfl, rfl, by decide⟩⟩

/-- A step that acts, and one that does not. -/
theorem witness_DrivesChangeOnlyByActions :
    (∃ s t : State, step s = .next t ∧ (s.inputAt 0).event ≠ some .reset ∧ t.trace ≠ s.trace) ∧
    (∃ s t : State, step s = .next t ∧ (s.inputAt 0).event ≠ some .reset ∧ t.trace = s.trace) :=
  ⟨⟨closing, _, rfl, by decide, by decide⟩, ⟨start tc1 [quiet], _, rfl, by decide, rfl⟩⟩

/-- A peripheral that acknowledges, and one that does not. -/
theorem witness_PeripheralLevelsAreIgnored :
    ∃ s₁ s₂ t₁ t₂ : State, s₁.forgetLevels = s₂.forgetLevels ∧ s₁ ≠ s₂ ∧
      Host.Core.run Sys2Proof.core 1 s₁ = .next t₁ ∧ Host.Core.run Sys2Proof.core 1 s₂ = .next t₂ :=
  ⟨closing, { closing with env := [⟨none, { answering with periphSda := true, periphScl := true }⟩] }, _, _, by decide, by decide,
    run_succ 0 (s := closing) rfl, run_succ 0 rfl⟩

/-- In the middle of a command, and between commands with another string pointer too. -/
theorem witness_DatapathIsUnobservable :
    (∃ s₁ s₂ t₁ t₂ : State, s₁.forgetDatapath = s₂.forgetDatapath ∧ s₁ ≠ s₂ ∧
      Host.Core.run Sys2Proof.core 1 s₁ = .next t₁ ∧ Host.Core.run Sys2Proof.core 1 s₂ = .next t₂) ∧
    (∃ s₁ s₂ t₁ t₂ : State, s₁.busy = false ∧ s₁.forgetDatapath.forgetSptr = s₂.forgetDatapath.forgetSptr ∧ s₁.sptr ≠ s₂.sptr ∧
      Host.Core.run Sys2Proof.core 1 s₁ = .next t₁ ∧ Host.Core.run Sys2Proof.core 1 s₂ = .next t₂ ∧ t₁.busy = true) :=
  ⟨⟨closing, { closing with sr := 0xA5, bitcnt := 3, idx := 7, col := 2, cmdr := 0x30000000 }, _, _, by decide, by decide,
      run_succ 0 (s := closing) rfl, run_succ 0 rfl⟩,
    ⟨presenting tc1 0x30000000 0, { presenting tc1 0x30000000 0 with sptr := 0x1234, sr := 0xA5 }, _, _, rfl, rfl, by decide,
      run_succ 0 (s := presenting tc1 0x30000000 0) rfl, run_succ 0 rfl, rfl⟩⟩

/-- A block with an error bit set, and one without. -/
theorem witness_ErrorBitsHaveNoEffect :
    ∃ s₁ s₂ t₁ t₂ : State, s₁.forgetErrors = s₂.forgetErrors ∧ s₁ ≠ s₂ ∧
      Host.Core.run Sys2Proof.core 1 s₁ = .next t₁ ∧ Host.Core.run Sys2Proof.core 1 s₂ = .next t₂ :=
  ⟨closing, { closing with errIll := true, errTimeout := true }, _, _, by decide, by decide, run_succ 0 (s := closing) rfl, run_succ 0 rfl⟩

/-- The first and the last SDA action of a byte. -/
theorem witness_BytesMakeNoConditions :
    byteActions 0 = [] ++ d0 :: (byteActions 0).tail ∧
    byteActions 0 = (byteActions 0).take 24 ++ d1 :: [c1, c0] ∧ ({ Receiver.start with scl := .low } : Receiver).scl = .low := by decide

/-- A store at the last address, over a cell, and of the value an unlisted address has. -/
theorem witness_RomStoreThenRead : Memory.wf [(3, 0x42), (65535, 0x41)] = true ∧ 65535 < 65536 ∧ 3 < 65536 := by decide

/-- Two canonical ROMs that read alike: one built in one order, one in the other. -/
theorem witness_RomIsDeterminedByItsBytes :
    Memory.wf (Memory.write (Memory.write [] 5 0x41) 3 0x42) = true ∧ Memory.wf (Memory.write (Memory.write [] 3 0x42) 5 0x41) = true ∧
    ∀ x, x < 65536 → Memory.read (Memory.write (Memory.write [] 5 0x41) 3 0x42) x = Memory.read (Memory.write (Memory.write [] 3 0x42) 5 0x41) x :=
  ⟨by decide, by decide, fun _ _ => rfl⟩

end Sys2Proof.Tests
end

section
/-!
PROOF. A store in a canonical string ROM is read back and changes no other address (00_scope R14, 20_memory R59, log entry 15).
-/

namespace Sys2Proof.Machine

/-- What the canonical form says of its first cell, and what it leaves to the rest. -/
theorem Memory.wfFrom_cons_iff {lo a : Nat} {c : Byte} {m : List Host.Cell} :
    Memory.wfFrom lo ((a, c) :: m) = true ↔ lo ≤ a ∧ a < 65536 ∧ c ≠ 0 ∧ Memory.wfFrom (a + 1) m = true := by
  simp [Memory.wfFrom, and_assoc]

/-- A read at the first cell's own address. -/
@[simp] theorem Memory.read_cons_self (a : Nat) (c : Byte) (m : List Host.Cell) : Memory.read ((a, c) :: m) a = c := by
  simp [Memory.read]

/-- A read at another address than the first cell's passes it over. -/
theorem Memory.read_cons_of_ne {a y : Nat} (h : y ≠ a) (c : Byte) (m : List Host.Cell) :
    Memory.read ((a, c) :: m) y = Memory.read m y := by
  simp [Memory.read, h.symm]

/-- A store changes no other address, whether the cells are in canonical form or not. -/
theorem Memory.read_write_of_ne {x y : Nat} (h : y ≠ x) (b : Byte) (m : List Host.Cell) :
    Memory.read (Memory.write m x b) y = Memory.read m y := by
  fun_induction Memory.write m x b with
  | case1 | case3 => rfl
  | case2 | case4 | case5 | case6 => simp only [Memory.read_cons_of_ne h]
  | case7 a c m x b _ _ ih => simp only [Memory.read, ih h]

/-- A stored byte is read back. Where 0x00 is stored no cell is left at the address: the rising order of the cells says that the
cells past it hold it no second time. -/
theorem Memory.read_write_self {m : List Host.Cell} {x lo : Nat} (hm : Memory.wfFrom lo m = true) (b : Byte) :
    Memory.read (Memory.write m x b) x = b := by
  fun_induction Memory.write m x b generalizing lo with
  | case1 => rfl
  | case2 | case4 | case6 => exact Memory.read_cons_self ..
  | case3 a c m x hlt =>
    obtain ⟨-, ha, hc, htail⟩ := Memory.wfFrom_cons_iff.mp hm
    exact Memory.read_below (Memory.wfFrom_cons_iff.mpr ⟨Nat.le_refl a, ha, hc, htail⟩) hlt
  | case5 c m a _ =>
    obtain ⟨-, -, -, htail⟩ := Memory.wfFrom_cons_iff.mp hm
    exact Memory.read_below htail (Nat.lt_succ_self a)
  | case7 a c m x b _ hne ih =>
    obtain ⟨-, -, -, htail⟩ := Memory.wfFrom_cons_iff.mp hm
    rw [Memory.read_cons_of_ne hne]
    exact ih htail

/-- Settles O55: the stored address by `Memory.read_write_self`, every other by `Memory.read_write_of_ne`. -/
theorem romStoreThenRead : Obligations.RomStoreThenRead := by
  intro m x y b hm _
  split_ifs with hy
  · rw [hy]
    exact Memory.read_write_self hm b
  · exact Memory.read_write_of_ne hy b m

end Sys2Proof.Machine
end

section
/-!
PROOF. A word that decodes is the word of its instruction, so CMDR holds the word that was accepted (30_encoding R82-R84, R88).
-/

namespace Sys2Proof

/-- A word is its bits under a mask and its bits under the complement, when the first are known. -/
theorem or_and_eq_of_mask {w mask rest pattern : Word} (h : w &&& mask = pattern) (hm : mask ||| rest = BitVec.allOnes 32) :
    pattern ||| w &&& rest = w := by
  rw [← h, ← BitVec.and_or_distrib_left, hm, BitVec.and_allOnes]

/-- Operand A put back in its place. -/
theorem fieldAt_fieldA (w : Word) : fieldAt (fieldA w) 16 = w &&& 0x00FF0000#32 := by
  apply BitVec.eq_of_getElem_eq
  intro k hk
  interval_cases k <;> simp [fieldAt, fieldA]

/-- Operand P put back in its place. -/
theorem fieldAt_fieldP (w : Word) : fieldAt (fieldP w) 0 = w &&& 0x000000FF#32 := by
  apply BitVec.eq_of_getElem_eq
  intro k hk
  interval_cases k <;> simp [fieldAt, fieldP]

/-- Operand S put back in its place. -/
theorem fieldAt_fieldS (w : Word) : fieldAt (fieldS w) 0 = w &&& 0x0000FFFF#32 := by
  apply BitVec.eq_of_getElem_eq
  intro k hk
  interval_cases k <;> simp [fieldAt, fieldS]

/-- A word with a format B row's pattern is that row's word for the A it holds. -/
theorem formatB_fieldA {op : BitVec 4} {w : Word} (h : w &&& 0xFF00FFFF#32 = formatZ op) : formatB op (fieldA w) = w := by
  rw [formatB, fieldAt_fieldA]
  exact or_and_eq_of_mask h rfl

/-- A word with a format Z row's pattern is that row's one word. -/
theorem formatZ_of_mask {op : BitVec 4} {w : Word} (h : w &&& 0xFFFFFFFF#32 = formatZ op) : formatZ op = w :=
  h.symm.trans BitVec.and_allOnes

/-- A word with a format CP row's pattern is that row's word for the A and P it holds. -/
theorem formatCP_fields {op : BitVec 4} {w : Word} (h : w &&& 0xFF00FF00#32 = formatZ op) : formatCP op (fieldA w) (fieldP w) = w := by
  rw [formatCP, fieldAt_fieldA, fieldAt_fieldP, BitVec.or_assoc, ← BitVec.and_or_distrib_left]
  exact or_and_eq_of_mask h rfl

/-- A word with the format S row's pattern is that row's word for the S it holds. -/
theorem formatS_fieldS {op : BitVec 4} {w : Word} (h : w &&& 0xFFFF0000#32 = formatZ op) : formatS op (fieldS w) = w := by
  rw [formatS, fieldAt_fieldS]
  exact or_and_eq_of_mask h rfl

/-- A word that a row hits is the word of the row's command with the operands the word holds: the pattern gives the bits under the row's
mask, the operands the rest. -/
theorem encode_assembleOperands {r : OpcodeRow} (hr : r ∈ opcodeMap) {w : Word} (hw : r.hits w = true) :
    encode (assembleOperands r.mnemonic w) = w := by
  have hw : w &&& r.mask = r.pattern := beq_iff_eq.mp hw
  simp only [opcodeMap, List.mem_cons, List.not_mem_nil, or_false] at hr
  rcases hr with rfl | rfl | rfl | rfl | rfl | rfl | rfl | rfl | rfl
  · exact formatB_fieldA (op := 0x1) hw
  · exact formatB_fieldA (op := 0x2) hw
  · exact formatZ_of_mask (op := 0x3) hw
  · exact formatZ_of_mask (op := 0x4) hw
  · exact formatCP_fields (op := 0x5) hw
  · exact formatB_fieldA (op := 0x6) hw
  · exact formatS_fieldS (op := 0x7) hw
  · exact formatB_fieldA (op := 0x8) hw
  · exact formatZ_of_mask (op := 0x9) hw

/-- A word that decodes is the word of the instruction it decodes to. -/
theorem encode_of_decode {w : Word} {i : Instr} (h : decode w = .ok i) : encode i = w := by
  unfold decode at h
  cases hf : opcodeMap.find? (·.hits w) with
  | none =>
    rw [hf] at h
    simp only at h
    split_ifs at h
  | some r =>
    rw [hf] at h
    cases h
    exact encode_assembleOperands (List.mem_of_find?_eq_some hf) (List.find?_some (p := fun r : OpcodeRow => r.hits w) hf)

end Sys2Proof
end

section
/-!
PROOF. What a step can do, once more and in the terms of the whole-machine rules: an accepting step and an engine step are one relation,
`Worked`, and the steps of the host's side leave the block's work alone (10_state R28, R35; 60_exceptions R171, R177).
-/

namespace Sys2Proof.Machine

/-- No line action was performed, or one was, with the update it came with in PENDING or as the abort's SDA_REL (60_exceptions R178). -/
inductive Moved (s t : State) : Prop
  | still (trace : t.trace = s.trace) (lines : t.lines = s.lines)
  | acted (a : LineAction) (u : Update) (origin : .act a u ∈ s.pending ∨ (a = .sdaRel ∧ u = { session := some false }))
      (trace : t.trace = s.trace ++ [a]) (lines : t.lines = s.lines.after a u)

/-- What a state with a command in progress becomes by its acceptance or by an engine step: what both leave alone, and what they may change. -/
structure Worked (s t : State) : Prop where
  cmdr : t.cmdr = s.cmdr
  cmdQueue : t.cmdQueue = s.cmdQueue
  cfg : t.cfg = s.cfg
  errIll : s.errIll = true → t.errIll = true
  errOor : s.errOor = true → t.errOor = true
  errTimeout : s.errTimeout = true → t.errTimeout = true
  faults : t.faults = s.faults ∨ ∃ f, t.faults = addFault f s.faults
  shaped : (∀ m ∈ s.pending, m.shaped = true) → ∀ m ∈ t.pending, m.shaped = true
  moved : Moved s t
  /-- The command goes on, with something left to do unless it hangs, or it is complete (10_state R28, R32, R35). -/
  progress :
    (t.busy = s.busy ∧ t.carrier = s.carrier ∧ t.hostLog = s.hostLog ∧ (t.hung = false → t.pending ≠ [])) ∨
    (t.busy = false ∧ t.carrier = none ∧ t.hostLog = s.hostLog ++ s.completion ∧ t.hung = s.hung ∧ t.pending = [])

/-- The moves of a state that differs from another in neither the lines nor what is pending are that one's. -/
theorem Moved.of_eq {r s t : State} (h : Moved r t) (htrace : r.trace = s.trace) (hlines : r.lines = s.lines)
    (hpending : r.pending = s.pending) : Moved s t := by
  cases h with
  | still trace lines => exact .still (trace.trans htrace) (lines.trans hlines)
  | acted a u origin trace lines =>
    rw [hpending] at origin
    rw [htrace] at trace
    rw [hlines] at lines
    exact .acted a u origin trace lines

/-- Where the command is complete when nothing is left to do. -/
theorem State.finish_progress (s : State) :
    (s.finish.busy = s.busy ∧ s.finish.carrier = s.carrier ∧ s.finish.hostLog = s.hostLog ∧ (s.finish.hung = false → s.finish.pending ≠ [])) ∨
    (s.finish.busy = false ∧ s.finish.carrier = none ∧ s.finish.hostLog = s.hostLog ++ s.completion ∧ s.finish.hung = s.hung ∧
      s.finish.pending = []) := by
  by_cases h : s.pending = []
  · exact .inr ⟨by simp [h], by simp [h], by simp [h], rfl, h⟩
  · exact .inl ⟨by simp [h], by simp [h], by simp [h], fun _ => h⟩

/-- Accepting a word: the command is expanded, or its check raises at once. -/
theorem acceptWord_worked {w : Word} {s t : State} (h : acceptWord w s = .next t) : Worked (s.accept w) t := by
  rcases acceptWord_cases h with ⟨i, hd, hx⟩ | ⟨-, -, rfl⟩
  · obtain ⟨kept, outcome, shaped⟩ := exec_accepted hx
    exact {
      cmdr := (congrArg State.cmdr kept).trans (encode_of_decode hd)
      cmdQueue := (congrArg State.cmdQueue kept :)
      cfg := (congrArg State.cfg kept :)
      errIll := (congrArg State.errIll kept).trans
      errOor := fun he => by
        rcases outcome with ⟨-, -, hoor, -⟩ | ⟨-, -, hoor, -⟩
        · exact hoor.trans he
        · exact hoor
      errTimeout := (congrArg State.errTimeout kept).trans
      faults := by
        rcases outcome with ⟨-, -, -, -, -, hf | hf⟩ | ⟨-, -, -, -, -, hf⟩
        · exact .inl hf
        · exact .inr ⟨_, hf⟩
        · exact .inl hf
      shaped := fun _ => shaped
      moved := .still (congrArg State.trace kept :) (congrArg State.lines kept :)
      progress := by
        rcases outcome with ⟨hb, hp, -, hc, hl, -⟩ | ⟨hb, hp, -, hc, hl, -⟩
        · exact .inl ⟨hb, hc, hl, fun _ => hp⟩
        · exact .inr ⟨hb, hc, hl, (congrArg State.hung kept :), hp⟩ }
  · exact {
      cmdr := rfl, cmdQueue := rfl, cfg := rfl
      errIll := fun _ => by simp [State.acceptIllegal]
      errOor := fun he => by simpa [State.acceptIllegal] using he
      errTimeout := fun he => by simpa [State.acceptIllegal] using he
      faults := .inl rfl
      shaped := fun _ _ hm => absurd hm List.not_mem_nil
      moved := .still rfl rfl
      progress := .inr ⟨rfl, rfl, rfl, rfl, rfl⟩ }

/-- What is left of a well-shaped PENDING after its head is well shaped. -/
theorem shaped_tail {m : Micro} {ms l : List Micro} (hl : l = m :: ms) (h : ∀ m ∈ l, m.shaped = true) : ∀ m ∈ ms, m.shaped = true :=
  (List.forall_mem_cons.mp (hl ▸ h)).2

/-- A line action, with what a stall makes of it (60_exceptions R177). -/
theorem act_worked {s : State} {a : LineAction} {u : Update} {ms : List Micro} (hp : s.pending = .act a u :: ms) :
    Worked s ((((s.load ms).emit a).update u).settle a) := by
  have acted {t : State} (trace : t.trace = s.trace ++ [a]) (lines : t.lines = s.lines.after a u) : Moved s t :=
    .acted a u (.inl (hp ▸ List.mem_cons_self)) trace lines
  rcases State.settle_cases (((s.load ms).emit a).update u) a with h | ⟨-, -, -, -, h⟩ | ⟨-, -, -, h⟩ <;> rw [h]
  · exact ⟨rfl, rfl, rfl, id, id, id, .inl rfl, shaped_tail hp, acted rfl rfl, State.finish_progress _⟩
  · exact ⟨rfl, rfl, rfl, id, id, id, .inl rfl, shaped_tail hp, acted rfl rfl, .inl ⟨rfl, rfl, rfl, fun hh => by cases hh⟩⟩
  · exact ⟨rfl, rfl, rfl, id, id, id, .inl rfl, fun _ => by simp [Micro.shaped], acted rfl rfl, .inl ⟨rfl, rfl, rfl, fun _ => by simp⟩⟩

/-- A turn of the pre-scan. -/
theorem scan_worked {s : State} {a : StrAddr} {ms : List Micro} (hp : s.pending = .scan a :: ms) :
    Worked s ((s.load ms).scanStep a) := by
  rcases scanStep_cases (s.load ms) a with ⟨-, h⟩ | ⟨-, -, h⟩ | ⟨-, -, -, h⟩ <;> rw [h]
  · refine ⟨rfl, rfl, rfl, id, id, id, ?_, ?_, .still rfl rfl, .inl ⟨rfl, rfl, rfl, fun _ => by simp [beginText_pending]⟩⟩
    · exact (recordIf_faults_cases _ _ _).imp_right fun hf => ⟨_, hf⟩
    · intro hs m hm
      rw [beginText_pending, List.mem_append, List.mem_append, List.mem_singleton] at hm
      rcases hm with (hm | rfl) | hm
      · exact openBus_shaped _ m hm
      · rfl
      · exact shaped_tail hp hs m hm
  · refine ⟨rfl, rfl, rfl, id, id, id, .inl rfl, fun hs m hm => ?_, .still rfl rfl, .inl ⟨rfl, rfl, rfl, fun _ => by simp⟩⟩
    rcases List.mem_cons.mp hm with rfl | hm
    · rfl
    · exact shaped_tail hp hs m hm
  · exact ⟨rfl, rfl, rfl, fun he => by simp [he], fun he => by simp [he], fun he => by simp [he], .inl rfl,
      fun _ _ hm => absurd hm List.not_mem_nil, .still rfl rfl, .inr ⟨rfl, rfl, rfl, rfl, rfl⟩⟩

/-- A turn of the loop of PUTS. -/
theorem nextChar_worked {s : State} {ms : List Micro} (hp : s.pending = .nextChar :: ms) :
    Worked s (s.load ms).nextCharStep := by
  rcases nextCharStep_cases (s.load ms) with ⟨-, h⟩ | ⟨-, h⟩ <;> rw [h]
  · refine ⟨rfl, rfl, rfl, id, id, id, .inl rfl, fun hs m hm => ?_, .still rfl rfl, .inl ⟨rfl, rfl, rfl, fun _ => by simp [txStop]⟩⟩
    rcases List.mem_append.mp hm with hm | hm
    · exact txStop_shaped m hm
    · exact shaped_tail hp hs m hm
  · refine ⟨rfl, rfl, rfl, id, id, id, .inl rfl, fun hs m hm => ?_, .still rfl rfl, .inl ⟨rfl, rfl, rfl, fun _ => by simp⟩⟩
    rw [State.push_pending, List.mem_append, List.mem_append, List.mem_singleton] at hm
    rcases hm with (hm | rfl) | hm
    · exact txBytes_shaped (charPayload_noSession _ _ _) m hm
    · rfl
    · exact shaped_tail hp hs m hm

/-- The timeout abort (60_exceptions R178). -/
theorem abort_worked (s : State) (ms : List Micro) : Worked s (s.load ms).abortStep where
  cmdr := rfl
  cmdQueue := rfl
  cfg := rfl
  errIll he := by simp [State.abortStep, he]
  errOor he := by simp [State.abortStep, he]
  errTimeout _ := by simp [State.abortStep]
  faults := .inl rfl
  shaped _ _ hm := absurd hm List.not_mem_nil
  moved := .acted .sdaRel { session := some false } (.inr ⟨rfl, rfl⟩) rfl rfl
  progress := .inr ⟨rfl, rfl, rfl, rfl, rfl⟩

/-- An engine step. -/
theorem engineStep_worked (s : State) : Worked s s.engineStep := by
  rcases engineStep_cases s with ⟨hh, h⟩ | ⟨-, hp, h⟩ | ⟨a, u, ms, -, hp, h⟩ | ⟨a, ms, -, hp, h⟩ | ⟨ms, -, hp, h⟩ | ⟨ms, -, -, h⟩ <;> rw [h]
  · exact ⟨rfl, rfl, rfl, id, id, id, .inl rfl, id, .still rfl rfl, .inl ⟨rfl, rfl, rfl, fun hn => by simp [hh] at hn⟩⟩
  · exact ⟨rfl, rfl, rfl, id, id, id, .inl rfl, id, .still rfl rfl, State.finish_progress s⟩
  · exact act_worked hp
  · exact scan_worked hp
  · exact nextChar_worked hp
  · exact abort_worked s ms

end Sys2Proof.Machine
end

section
/-!
PROOF. Every step keeps the control invariant (10_state R28, R32, R35; 20_memory R66; 40_bus_transport R104, R106; 60_exceptions R172).
-/

namespace Sys2Proof.Machine

theorem addFault_nodup {f : Fault} {fs : List Fault} (h : fs.Nodup) : (addFault f fs).Nodup := by
  unfold addFault
  split_ifs with hf
  · exact h
  · rw [← List.concat_eq_append]
    exact h.concat hf

/-- The control invariant while the command that a CMD write carries is worked on: what is pending is left open, since it may just run out. -/
structure State.InProgress (s : State) : Prop where
  busy : s.busy = true
  hung : s.hung = false
  carried : s.carrier.isSome = true
  oneWrite : (s.carrier.toList ++ s.cmdQueue.map (·.ctx)).Nodup
  legal : s.cfg.legal = true
  faults : s.faults.Nodup
  shaped : ∀ m ∈ s.pending, m.shaped = true

/-- Work on a command in progress ends in the control invariant. -/
theorem Worked.inv {s t : State} (h : Worked s t) (hs : s.InProgress) : t.Inv := by
  have legal : t.cfg.legal = true := h.cfg ▸ hs.legal
  have faults : t.faults.Nodup := by
    rcases h.faults with hf | ⟨f, hf⟩ <;> rw [hf]
    · exact hs.faults
    · exact addFault_nodup hs.faults
  have shaped := h.shaped hs.shaped
  have oneWrite := hs.oneWrite
  rw [← h.cmdQueue] at oneWrite
  rcases h.progress with ⟨hb, hc, -, hp⟩ | ⟨hb, hc, -, hh, hp⟩
  · have busy : t.busy = true := hb.trans hs.busy
    exact {
      idle := fun hi => absurd (busy.symm.trans hi) (by decide)
      working := fun _ => hp
      carried := by rw [busy, hc, hs.carried]
      oneWrite := hc ▸ oneWrite
      legal, faults, shaped }
  · exact {
      idle := fun _ => ⟨hp, hh.trans hs.hung⟩
      working := fun hw => absurd (hb.symm.trans hw) (by decide)
      carried := by rw [hb, hc]; rfl
      oneWrite := by rw [hc]; exact oneWrite.of_append_right
      legal, faults, shaped }

/-- A state with the same command in progress meets the invariant too, where no context has a second CMD write and no fault is repeated. -/
theorem State.Inv.congr {s t : State} (h : s.Inv) (busy : t.busy = s.busy) (hung : t.hung = s.hung) (pending : t.pending = s.pending)
    (carrier : t.carrier = s.carrier) (cfg : t.cfg = s.cfg)
    (oneWrite : (s.carrier.toList ++ t.cmdQueue.map (·.ctx)).Nodup) (faults : t.faults.Nodup) : t.Inv where
  idle := by rw [busy, hung, pending]; exact h.idle
  working := by rw [busy, hung, pending]; exact h.working
  carried := by rw [busy, carrier]; exact h.carried
  oneWrite := by rw [carrier]; exact oneWrite
  legal := by rw [cfg]; exact h.legal
  faults := faults
  shaped := by rw [pending]; exact h.shaped

/-- A step's input concerns the outside alone. -/
theorem State.Inv.latch {s : State} (h : s.Inv) : s.latch.Inv := h.congr rfl rfl rfl rfl rfl h.oneWrite h.faults

/-- An access that waits concerns the host alone. -/
theorem State.Inv.hold {s : State} (h : s.Inv) (a : HostAccess) : (s.hold a).Inv := h.congr rfl rfl rfl rfl rfl h.oneWrite h.faults

/-- The state in which an access takes effect meets the invariant of the state before the step. -/
theorem State.Serves.inv {s r : State} {a : HostAccess} (h : s.Serves a r) (hs : s.Inv) : r.Inv := by
  rw [h.eq]
  exact hs.congr rfl rfl rfl rfl rfl hs.oneWrite hs.faults

/-- Which contexts have a CMD write that is not complete (10_state R35). -/
theorem State.inFlight_eq_false_iff {s : State} {c : Nat} :
    s.inFlight c = false ↔ c ∉ s.carrier.toList ++ s.cmdQueue.map (·.ctx) := by
  simp [State.inFlight]

/-- The host's own accesses keep the invariant: a write that is held is its context's only one. -/
theorem Served.inv {r t : State} {a : HostAccess} (h : Served r a t) (hr : r.Inv) (ha : r.inFlight a.ctx = false) : t.Inv := by
  cases h with
  | held _ _ =>
    refine hr.congr rfl rfl rfl rfl rfl ?_ hr.faults
    rw [State.queueWrite_cmdQueue, List.map_append, ← List.append_assoc, List.map_singleton, ← List.concat_eq_append]
    exact hr.oneWrite.concat (State.inFlight_eq_false_iff.mp ha)
  | cmdRead _ | statusWrite _ _ | statusRead _ => exact hr.congr rfl rfl rfl rfl rfl hr.oneWrite hr.faults
  | unmapped => exact hr.congr rfl rfl rfl rfl rfl hr.oneWrite (addFault_nodup hr.faults)

/-- An idle block that accepts a write of a context has no other of that context. -/
theorem State.Accepts.oneWrite {s s' : State} {c : Nat} {w : Word} (h : s.Accepts c w s') (hs : s.Inv) :
    (c :: s'.cmdQueue.map (·.ctx)).Nodup := by
  obtain ⟨-, ⟨ws, -, -, hq, rfl⟩ | ⟨r, hr, hq, rfl⟩⟩ := h
  · have := hs.oneWrite.of_append_right
    rwa [hq] at this
  · have hr : (r.carry c).cmdQueue = [] := by rwa [hr.eq]
    rw [hr]
    exact List.nodup_singleton c

/-- A word that is accepted is a command in progress, whatever its expansion will be. -/
theorem State.Accepts.inProgress {s s' : State} {c : Nat} {w : Word} (h : s.Accepts c w s') (hs : s.Inv) :
    (s'.accept w).InProgress := by
  have hi := hs.idle h.1
  have hw := h.oneWrite hs
  have he := h.eq
  exact {
    busy := rfl
    hung := by rw [he]; exact hi.2
    carried := by rw [he]; rfl
    oneWrite := by rw [he]; exact hw
    legal := by rw [he]; exact hs.legal
    faults := by rw [he]; exact hs.faults
    shaped := by rw [he]; exact hs.shaped }

/-- RST leaves an idle block; the writes that outlast it were held together. -/
theorem State.Inv.resetBlock {s : State} (h : s.Inv) : s.resetBlock.Inv where
  idle _ := ⟨rfl, rfl⟩
  working hb := absurd hb Bool.false_ne_true
  carried := rfl
  oneWrite := by
    show (s.heldAfterReset.map (·.ctx)).Nodup
    unfold State.heldAfterReset
    split_ifs
    · exact h.oneWrite.of_append_right
    · exact List.nodup_nil
  legal := h.legal
  faults := by
    show (if s.session then addFault .resetInSession s.faults else s.faults).Nodup
    split_ifs
    · exact addFault_nodup h.faults
    · exact h.faults
  shaped _ hm := absurd hm List.not_mem_nil

/-- The engine's step keeps the invariant: a hung engine does nothing, another works on the command in progress. -/
theorem State.Inv.engineStep {s : State} (h : s.Inv) (hb : s.busy = true) : s.engineStep.Inv := by
  cases hh : s.hung with
  | true => rwa [engineStep_hung hh]
  | false => exact (engineStep_worked s).inv ⟨hb, hh, h.carried ▸ hb, h.oneWrite, h.legal, h.faults, h.shaped⟩

/-- Settles O40: by the cases of a step. -/
theorem stepKeepsControlInvariant : Obligations.StepKeepsControlInvariant := by
  intro s t hs h
  rcases step_cases s with ⟨-, e⟩ | ⟨a, -, -, e⟩ | ⟨a, r, t', hr, ht, e⟩ | ⟨c, w, s', hA, e⟩ | ⟨-, -, hb, e⟩ | ⟨-, -, -, -, e⟩ <;>
    rw [e] at h
  · cases h
    exact hs.latch.resetBlock
  · cases h
    exact hs.latch.hold a
  · cases h
    refine ht.inv (hr.inv hs) ?_
    rw [hr.eq]
    exact hr.inFlight
  · exact (acceptWord_worked h).inv (hA.inProgress hs)
  · cases h
    exact hs.latch.engineStep hb
  · cases h
    exact hs.latch

/-- Settles O41: the block after reset is idle, and the build is legal. -/
theorem resetMeetsInvariants : Obligations.ResetMeetsInvariants where
  left := {
    idle := fun _ => ⟨rfl, rfl⟩
    working := fun hb => absurd hb Bool.false_ne_true
    carried := rfl
    oneWrite := List.nodup_nil
    legal := Config.params_legal
    faults := List.nodup_nil
    shaped := fun _ hm => absurd hm List.not_mem_nil }
  right _ := .inl rfl

end Sys2Proof.Machine
end

section
/-!
PROOF. The rules of the whole machine that hold of every step: the error bits, SESSION and the drive states, the held writes
(10_state R29, R31, R32, R33, R35; 40_bus_transport R101; 60_exceptions R178, R182).
-/

namespace Sys2Proof.Machine

/-- A step of the host's side: the block's work stands still, and held writes stay at the head of the queue. -/
structure HostSide (s t : State) : Prop where
  busy : t.busy = s.busy
  cmdr : t.cmdr = s.cmdr
  trace : t.trace = s.trace
  lines : t.lines = s.lines
  cmdQueue : ∃ more, t.cmdQueue = s.cmdQueue ++ more

/-- An access other than an accepted CMD write is the host's. -/
theorem State.Serves.hostSide {s r t : State} {a : HostAccess} (h : s.Serves a r) (ht : Served r a t) : HostSide s t := by
  rw [h.eq] at ht
  cases ht with
  | held _ _ => exact ⟨rfl, rfl, rfl, rfl, _, rfl⟩
  | cmdRead _ | statusWrite _ _ | statusRead _ | unmapped => exact ⟨rfl, rfl, rfl, rfl, [], (List.append_nil _).symm⟩

/-- Every step is a reset, the host's, the acceptance of a word, or the engine's. -/
theorem step_worked {s t : State} (h : step s = .next t) :
    ((s.inputAt 0).event = some .reset ∧ t = s.latch.resetBlock) ∨ HostSide s t ∨
    (∃ c w s', s.Accepts c w s' ∧ Worked (s'.accept w) t) ∨ (s.busy = true ∧ Worked s.latch t) := by
  rcases step_cases s with ⟨hr, e⟩ | ⟨a, -, -, e⟩ | ⟨a, r, t', hr, ht, e⟩ | ⟨c, w, s', hA, e⟩ | ⟨-, -, hb, e⟩ | ⟨-, -, -, -, e⟩ <;>
    rw [e] at h
  · cases h
    exact .inl ⟨hr, rfl⟩
  · cases h
    exact .inr (.inl ⟨rfl, rfl, rfl, rfl, [], (List.append_nil _).symm⟩)
  · cases h
    exact .inr (.inl (hr.hostSide ht))
  · exact .inr (.inr (.inl ⟨c, w, s', hA, acceptWord_worked h⟩))
  · cases h
    exact .inr (.inr (.inr ⟨hb, engineStep_worked _⟩))
  · cases h
    exact .inr (.inl ⟨rfl, rfl, rfl, rfl, [], (List.append_nil _).symm⟩)

/-- Apart from reset a step performs at most one line action, one that is pending or the abort's. -/
theorem step_moved {s t : State} (h : step s = .next t) (hr : (s.inputAt 0).event ≠ some .reset) : Moved s t := by
  rcases step_worked h with ⟨he, -⟩ | ht | ⟨c, w, s', hA, hw⟩ | ⟨-, hw⟩
  · exact absurd he hr
  · exact .still ht.trace ht.lines
  · exact hw.moved.of_eq (congrArg State.trace hA.eq :) (congrArg State.lines hA.eq :) (congrArg State.pending hA.eq :)
  · exact hw.moved.of_eq rfl rfl rfl

/-- Settles O48: by `step_moved`; an action's update does not touch the drive states. -/
theorem drivesChangeOnlyByActions : Obligations.DrivesChangeOnlyByActions := by
  intro s t h hr
  cases step_moved h hr with
  | still trace lines => exact .inl ⟨trace, congrArg Lines.sda lines, congrArg Lines.scl lines⟩
  | acted a u _ trace lines => exact .inr ⟨a, trace, congrArg Lines.sda lines, congrArg Lines.scl lines⟩

/-- An update that writes SESSION comes with the action that the spec gives it (40_bus_transport R104, R106). -/
theorem Micro.shaped_session {a : LineAction} {u : Update} (h : (Micro.act a u).shaped = true) :
    (u.session = some true → a = .sclLow) ∧ (u.session = some false → a = .sdaRel) :=
  ⟨fun hu => by simpa [Micro.shaped, hu] using h, fun hu => by simpa [Micro.shaped, hu] using h⟩

/-- Settles O47: by `step_moved`; what is pending is well shaped. -/
theorem sessionChangesOnlyWithItsAction : Obligations.SessionChangesOnlyWithItsAction := by
  intro s t hs h hne
  by_cases hr : (s.inputAt 0).event = some .reset
  · exact .inl hr
  refine .inr ?_
  cases step_moved h hr with
  | still _ lines => exact absurd (congrArg Lines.session lines) hne
  | acted a u origin trace lines =>
    have shaped : (Micro.act a u).shaped = true := by
      rcases origin with hm | ⟨rfl, rfl⟩
      · exact hs.shaped _ hm
      · rfl
    obtain ⟨rises, falls⟩ := Micro.shaped_session shaped
    have session : t.session = u.session.getD s.session := congrArg Lines.session lines
    cases hu : u.session with
    | none => exact absurd (by rw [session, hu]; rfl) hne
    | some b =>
      rw [hu] at session
      cases b with
      | true => exact .inl ⟨session, rises hu ▸ trace⟩
      | false => exact .inr ⟨session, falls hu ▸ trace⟩

/-- Settles O36: a busy block's steps are the host's and the engine's; an idle block's BUSY rises in no step but an acceptance. -/
theorem busyBlockHoldsWrites : Obligations.BusyBlockHoldsWrites := by
  constructor
  · intro s t hr hb h
    rcases step_worked h with ⟨he, -⟩ | ht | ⟨c, w, s', hA, -⟩ | ⟨-, hw⟩
    · exact absurd he hr
    · exact ⟨ht.cmdr, ht.cmdQueue⟩
    · exact absurd (hb.symm.trans hA.1) (by decide)
    · exact ⟨hw.cmdr, [], hw.cmdQueue.trans (List.append_nil _).symm⟩
  · intro s t h hs ht
    rcases step_worked h with ⟨-, rfl⟩ | hh | ⟨c, w, s', hA, hw⟩ | ⟨hb, -⟩
    · exact absurd ht Bool.false_ne_true
    · exact absurd (ht.symm.trans (hh.busy.trans hs)) (by decide)
    · refine ⟨c, w, s', hA, hw.cmdr, ?_, hw.cmdQueue⟩
      rcases hw.progress with ⟨-, hc, -⟩ | ⟨hb, -⟩
      · exact hc.trans (congrArg State.carrier hA.eq)
      · exact absurd (ht.symm.trans hb) (by decide)
    · exact absurd (hb.symm.trans hs) (by decide)

/-- An access that is no STATUS write leaves the error bits alone. -/
theorem Served.errors {s t : State} {a : HostAccess} (h : Served s a t)
    (hne : ¬(a.write = true ∧ a.width = 32 ∧ a.addr = statusAddr s.cfg)) :
    t.errIll = s.errIll ∧ t.errOor = s.errOor ∧ t.errTimeout = s.errTimeout := by
  cases h with
  | statusWrite hw hm => exact absurd ⟨hw, hm⟩ hne
  | held _ _ | cmdRead _ | statusRead _ | unmapped => exact ⟨rfl, rfl, rfl⟩

/-- Settles O32: by the cases of a step. -/
theorem errorBitsAreSticky : Obligations.ErrorBitsAreSticky := by
  intro s t h hr hne
  rcases step_cases s with ⟨he, -⟩ | ⟨a, -, -, e⟩ | ⟨a, r, t', hs, ht, e⟩ | ⟨c, w, s', hA, e⟩ | ⟨-, -, -, e⟩ | ⟨-, -, -, -, e⟩
  · exact absurd he hr
  all_goals rw [e] at h
  · cases h
    exact ⟨id, id, id⟩
  · cases h
    obtain ⟨hill, hoor, htimeout⟩ := ht.errors (by rw [hs.eq]; exact hne a r hs)
    rw [hill, hoor, htimeout, hs.eq]
    exact ⟨id, id, id⟩
  · have hw := acceptWord_worked h
    rw [hA.eq] at hw
    exact ⟨hw.errIll, hw.errOor, hw.errTimeout⟩
  · cases h
    have hw := engineStep_worked s.latch
    exact ⟨hw.errIll, hw.errOor, hw.errTimeout⟩
  · cases h
    exact ⟨id, id, id⟩

end Sys2Proof.Machine
end

section
/-!
PROOF. The program order of each host context (20_memory R66, R68; 10_state R35).
-/

namespace Sys2Proof.Machine

/-- The answers `more` of a step: a load or a STATUS write of a context without a CMD write in flight, or the completion of a CMD write that
leaves the block idle and its context without one. -/
structure AnswersInOrder (s t : State) (more : List HostAnswer) : Prop where
  hostLog : t.hostLog = s.hostLog ++ more
  accesses : ∀ c w, .data c w ∈ more ∨ .statusWritten c ∈ more → s.inFlight c = false
  completions : ∀ c, .commandDone c ∈ more → t.busy = false ∧ t.pending = [] ∧ t.inFlight c = false

/-- A step without an answer. -/
theorem AnswersInOrder.nil {s t : State} (h : t.hostLog = s.hostLog) : AnswersInOrder s t [] where
  hostLog := h.trans (List.append_nil _).symm
  accesses _ _ hm := by simp at hm
  completions _ hm := absurd hm List.not_mem_nil

/-- Answers that all complete CMD writes. -/
theorem AnswersInOrder.of_completions {s t : State} {more : List HostAnswer} (hostLog : t.hostLog = s.hostLog ++ more)
    (all : ∀ r ∈ more, ∃ c, r = .commandDone c)
    (completions : ∀ c, .commandDone c ∈ more → t.busy = false ∧ t.pending = [] ∧ t.inFlight c = false) : AnswersInOrder s t more where
  hostLog := hostLog
  accesses _ _ hm := by rcases hm with hm | hm <;> obtain ⟨_, h⟩ := all _ hm <;> cases h
  completions := completions

/-- The completion of the command in progress is its context's. -/
theorem State.mem_completion {s : State} {r : HostAnswer} : r ∈ s.completion ↔ ∃ c, s.carrier = some c ∧ r = .commandDone c := by
  unfold State.completion
  cases s.carrier <;> simp

/-- Work on a command answers nothing, or completes its CMD write, the only one of its context. -/
theorem Worked.answers {s r t : State} (h : Worked r t) (hone : (r.carrier.toList ++ r.cmdQueue.map (·.ctx)).Nodup)
    (hlog : r.hostLog = s.hostLog) : ∃ more, AnswersInOrder s t more := by
  rcases h.progress with ⟨-, -, hl, -⟩ | ⟨hb, hc, hl, -, hp⟩
  · exact ⟨[], .nil (hl.trans hlog)⟩
  · refine ⟨r.completion, .of_completions (hlog ▸ hl) (fun x hx => ?_) (fun c hx => ⟨hb, hp, ?_⟩)⟩
    · obtain ⟨c, -, rfl⟩ := State.mem_completion.mp hx
      exact ⟨c, rfl⟩
    · obtain ⟨c', hc', he⟩ := State.mem_completion.mp hx
      cases he
      rw [State.inFlight_eq_false_iff, hc, h.cmdQueue]
      rw [hc'] at hone
      exact (List.nodup_cons.mp hone).1

/-- The host's own accesses are answered only where their context has no CMD write in flight. -/
theorem State.Serves.answers {s r t : State} {a : HostAccess} (h : s.Serves a r) (ht : Served r a t) :
    ∃ more, AnswersInOrder s t more := by
  have hfree := h.inFlight
  rw [h.eq] at ht
  cases ht with
  | held _ _ | unmapped => exact ⟨[], .nil rfl⟩
  | cmdRead _ | statusRead _ => exact ⟨[.data a.ctx _], rfl, by simp [hfree], by simp⟩
  | statusWrite _ _ => exact ⟨[.statusWritten a.ctx], rfl, by simp [hfree], by simp⟩

/-- RST answers with completions only, and leaves no write in flight where it does. -/
theorem State.Inv.resetBlock_answers {s : State} (h : s.Inv) : AnswersInOrder s s.resetBlock s.resetAnswers := by
  refine .of_completions rfl (fun x hx => ?_) (fun c hx => ⟨rfl, rfl, ?_⟩)
  · rcases List.mem_append.mp hx with hx | hx
    · obtain ⟨c, -, rfl⟩ := State.mem_completion.mp hx
      exact ⟨c, rfl⟩
    · split_ifs at hx
      · exact absurd hx List.not_mem_nil
      · obtain ⟨p, -, rfl⟩ := List.mem_map.mp hx
        exact ⟨p.ctx, rfl⟩
  · rw [State.inFlight_eq_false_iff]
    show c ∉ s.heldAfterReset.map (·.ctx)
    unfold State.heldAfterReset
    by_cases hk : (!s.busy && s.inp.draws.heldSurvive) = true
    · have hb : s.busy = false := by simpa using (Bool.and_eq_true_iff.mp hk).1
      have hc : s.carrier = none := by simpa using h.carried.symm.trans hb
      simp [State.resetAnswers, State.completion, hk, hc] at hx
    · simp [hk]

/-- What a step answers. -/
theorem step_answers {s t : State} (hs : s.Inv) (h : step s = .next t) : ∃ more, AnswersInOrder s t more := by
  rcases step_cases s with ⟨-, e⟩ | ⟨a, -, -, e⟩ | ⟨a, r, t', hr, ht, e⟩ | ⟨c, w, s', hA, e⟩ | ⟨-, -, -, e⟩ | ⟨-, -, -, -, e⟩ <;>
    rw [e] at h
  · cases h
    obtain ⟨hostLog, accesses, completions⟩ := hs.latch.resetBlock_answers
    exact ⟨_, hostLog, accesses, completions⟩
  · cases h
    exact ⟨[], .nil rfl⟩
  · cases h
    exact hr.answers ht
  · exact (acceptWord_worked h).answers (hA.inProgress hs).oneWrite (congrArg State.hostLog hA.eq :)
  · cases h
    exact (engineStep_worked _).answers hs.oneWrite rfl
  · cases h
    exact ⟨[], .nil rfl⟩

/-- A context may not proceed: its CMD write is in flight, or an older access of its own waits. -/
theorem State.blocked_iff {s : State} {c : Nat} : s.blocked c = true ↔ s.inFlight c = true ∨ ∃ b ∈ s.waiting, b.ctx = c := by
  simp [State.blocked]

/-- An access that may not proceed waits behind those that wait already. -/
theorem step_hold {s : State} {a : HostAccess} (he : (s.inputAt 0).event = some (.access a)) (hb : s.blocked a.ctx = true) :
    step s = .next (s.latch.hold a) := by
  simp [step, he, State.present, hb]

/-- An access that takes effect is the oldest that waits of its context, if it waited, and alone leaves the line. -/
theorem State.Serves.waiting {s s' : State} {a : HostAccess} (h : s.Serves a s') :
    (s'.waiting = s.waiting ∧ ∀ b ∈ s.waiting, b.ctx ≠ a.ctx) ∨
    ∃ pre post, s.waiting = pre ++ a :: post ∧ (∀ b ∈ pre, b.ctx ≠ a.ctx) ∧ s'.waiting = pre ++ post := by
  rcases h with ⟨-, hb, rfl⟩ | ⟨-, hr, rfl⟩
  · refine .inl ⟨rfl, fun b hm hc => ?_⟩
    rw [State.blocked_iff.mpr (.inr ⟨b, hm, hc⟩)] at hb
    cases hb
  · exact .inr (State.release_waiting_of_ready hr)

/-- Settles O58: by `step_hold`, `State.Serves.waiting` and `step_answers`. -/
theorem hostAccessesKeepProgramOrder : Obligations.HostAccessesKeepProgramOrder := by
  refine ⟨fun s a he hb => step_hold he (State.blocked_iff.mpr hb), fun s s' a h => ⟨h.inFlight, h.waiting⟩, fun s t hs h => ?_⟩
  obtain ⟨more, hostLog, accesses, completions⟩ := step_answers hs h
  exact ⟨more, hostLog, accesses, completions⟩

end Sys2Proof.Machine
end

section
/-!
PROOF. The datapath registers cannot be observed (10_state R25, R26, R40, R43): a forward simulation between two machines whose datapath
registers differ, SPTR only where nothing will read it before it is written.
-/

namespace Sys2Proof.Machine

/-- Values of the datapath registers (10_state R25). -/
structure Datapath where
  cmdr : Word
  sr : Byte
  bitcnt : BitVec 4
  idx : BitVec 11
  col : BitVec 3
  sptr : StrAddr

/-- The datapath registers of a state. -/
def State.datapath (s : State) : Datapath := ⟨s.cmdr, s.sr, s.bitcnt, s.idx, s.col, s.sptr⟩

/-- A state with other values in its datapath registers. -/
def State.withDatapath (s : State) (d : Datapath) : State :=
  { s with cmdr := d.cmdr, sr := d.sr, bitcnt := d.bitcnt, idx := d.idx, col := d.col, sptr := d.sptr }

/-- What a micro-step writes of the datapath registers. -/
def Datapath.update (d : Datapath) (u : Update) : Datapath :=
  { d with sr := u.sr.getD d.sr, bitcnt := u.bitcnt.getD d.bitcnt, idx := u.idx.getD d.idx, col := u.col.getD d.col }

/-- States that agree when the datapath registers are forgotten differ in them alone. -/
theorem State.eq_withDatapath {s t : State} (h : s.forgetDatapath.forgetSptr = t.forgetDatapath.forgetSptr) :
    t = s.withDatapath t.datapath := by
  cases s
  cases t
  cases h
  rfl

/-- A micro-step that reads SPTR (42_text_output R150). -/
def Micro.readsSptr : Micro → Bool
  | .act _ _ => false
  | .scan _ => true
  | .nextChar => true
  | .abort => false

/-- SPTR is live: something of the command in progress will read it. -/
def State.ReadsSptr (s : State) : Prop := s.busy = true ∧ ∃ m ∈ s.pending, m.readsSptr = true

theorem State.not_readsSptr_of_idle {s : State} (h : s.busy = false) : ¬s.ReadsSptr := by
  rintro ⟨hb, -⟩
  exact absurd (hb.symm.trans h) (by decide)

/-- Line actions do not read SPTR. -/
theorem State.not_readsSptr_of_isAct {s : State} (h : ∀ m ∈ s.pending, m.isAct = true) : ¬s.ReadsSptr := by
  rintro ⟨-, m, hm, hr⟩
  have := h m hm
  cases m with
  | act a u => cases hr
  | scan a | nextChar | abort => cases this

/-- The second state differs from the first in the datapath registers alone, and not in SPTR where it is live, nor where `k` holds. -/
def Alike (k : Prop) (s t : State) : Prop := ∃ d : Datapath, t = s.withDatapath d ∧ (k ∨ s.ReadsSptr → d.sptr = s.sptr)

/-- The outcomes of the two machines: both go on, alike. -/
def AlikeNext (k : Prop) (o p : Host.Outcome State Fault Refusal) : Prop := ∃ s t, o = .next s ∧ p = .next t ∧ Alike k s t

section

variable {k : Prop}

theorem Alike.next {s t : State} (h : Alike k s t) : AlikeNext k (.next s) (.next t) := ⟨s, t, rfl, rfl, h⟩

/-- Two branches under one condition. -/
theorem ite_related {α : Type} {R : α → α → Prop} {c : Prop} [Decidable c] {a b a' b' : α} (hpos : c → R a a') (hneg : ¬c → R b b') :
    R (if c then a else b) (if c then a' else b') := by
  split_ifs with h
  · exact hpos h
  · exact hneg h

/-- Where SPTR is not live after a change of other registers, the states are alike still. -/
theorem Alike.of_dead {s s' : State} {d d' : Datapath} (hd : k ∨ s.ReadsSptr → d.sptr = s.sptr) (hd' : d'.sptr = d.sptr)
    (hs' : s'.sptr = s.sptr) (hdead : ¬s'.ReadsSptr) : Alike k s' (s'.withDatapath d') :=
  ⟨d', rfl, fun h => by rw [hd', hs', hd (.inl (h.resolve_right hdead))]⟩

theorem openBus_isAct (addr : Byte) : ∀ m ∈ txStart ++ txByte {} addr, m.isAct = true := by
  intro m hm
  rcases List.mem_append.mp hm with h | h
  · exact txStart_isAct m h
  · exact txByte_isAct _ _ m h

theorem clearExpansion_isAct (p : Params) : ∀ m ∈ clearExpansion p, m.isAct = true := by
  intro m hm
  simp only [clearExpansion, setcurExpansion, shiftExpansion, List.mem_append] at hm
  rcases hm with (h | h) | h
  all_goals exact session_isAct _ _ m h

/-- A command whose expansion is line actions alone is accepted alike. -/
theorem load_alike {s t : State} (h : Alike k s t) (w : Word) (c : Bool) (f : Fault) {ms : List Micro} (hms : ∀ m ∈ ms, m.isAct = true) :
    Alike k (((s.accept w).recordIf c f).load ms) (((t.accept w).recordIf c f).load ms) := by
  obtain ⟨d, rfl, hd⟩ := h
  exact .of_dead (d' := { d with cmdr := w }) hd rfl rfl (State.not_readsSptr_of_isAct hms)

/-- Every command is accepted alike; PUTS writes SPTR before it reads it (42_text_output R150). -/
theorem exec_alike {s t : State} (h : Alike k s t) (i : Instr) : AlikeNext k (exec i s) (exec i t) := by
  have hst := h
  obtain ⟨d, rfl, hd⟩ := hst
  cases i with
  | openBus a => exact (load_alike h _ _ _ (openBus_isAct a)).next
  | writeByte b => exact (load_alike h _ _ _ (txByte_isAct _ b)).next
  | closeBus => exact (load_alike h _ _ _ txStop_isAct).next
  | init | setcur c p | shift o => exact (load_alike h _ _ _ (session_isAct _ _)).next
  | clear => exact (load_alike h _ _ _ (clearExpansion_isAct _)).next
  | putc c =>
    refine Alike.next (ite_related (fun _ => ?_) fun _ => load_alike h _ _ _ (session_isAct _ _))
    exact .of_dead (d' := { d with cmdr := encode (.putc c) }) hd rfl rfl (State.not_readsSptr_of_idle rfl)
  | puts a =>
    refine Alike.next (ite_related (fun _ => ?_) fun _ => ?_)
    all_goals exact ⟨{ d with cmdr := encode (.puts a), sptr := a }, rfl, fun _ => rfl⟩

/-- Every word is accepted alike. -/
theorem acceptWord_alike {s t : State} (h : Alike k s t) (w : Word) : AlikeNext k (acceptWord w s) (acceptWord w t) := by
  unfold acceptWord
  cases decode w with
  | ok i => exact exec_alike h i
  | error e =>
    obtain ⟨d, rfl, hd⟩ := h
    exact Alike.next (.of_dead (d' := { d with cmdr := w }) hd rfl rfl (State.not_readsSptr_of_idle rfl))

/-- An access takes effect alike. -/
theorem serve_alike {s t : State} (h : Alike k s t) (a : HostAccess) : AlikeNext k (s.serve a) (t.serve a) := by
  obtain ⟨d, rfl, hd⟩ := h
  refine ite_related (fun _ => ite_related (fun _ => ite_related (fun _ => ?_) fun _ => ?_) fun _ => ?_) fun _ =>
    ite_related (fun _ => Alike.next (ite_related (fun _ => ?_) fun _ => ?_)) fun _ => ?_
  case refine_1 => exact acceptWord_alike (s := s.carry a.ctx) ⟨d, rfl, hd⟩ a.data
  case refine_4 | refine_5 => exact ⟨d, rfl, hd⟩
  all_goals exact Alike.next ⟨d, rfl, hd⟩

/-- A command completes alike. -/
theorem finish_alike {s t : State} (h : Alike k s t) : Alike k s.finish t.finish := by
  obtain ⟨d, rfl, hd⟩ := h
  refine ⟨d, rfl, fun hk => hd (hk.imp_right fun hr => ?_)⟩
  obtain ⟨hb, m, hm, hr⟩ := hr
  have hb : s.busy = true := by simpa [List.ne_nil_of_mem (show m ∈ s.pending from hm)] using hb
  exact ⟨hb, m, hm, hr⟩

/-- A stall makes the same of alike states. -/
theorem settle_alike {s t : State} (h : Alike k s t) (a : LineAction) : Alike k (s.settle a) (t.settle a) := by
  have finish := finish_alike h
  obtain ⟨d, rfl, hd⟩ := h
  refine ite_related (fun _ => ?_) fun _ => finish
  show Alike k (match s.cfg.stallPolicy with | .none => _ | .timeout => _) (match s.cfg.stallPolicy with | .none => _ | .timeout => _)
  cases s.cfg.stallPolicy with
  | none => exact ite_related (fun _ => ⟨d, rfl, hd⟩) fun _ => finish
  | timeout =>
    refine ite_related (fun _ => .of_dead (d' := d) hd rfl rfl ?_) fun _ => finish
    rintro ⟨-, m, hm, hr⟩
    rw [State.load_pending, List.mem_singleton] at hm
    subst hm
    cases hr

/-- A turn of the pre-scan is taken alike. -/
theorem scanStep_alike {s : State} {d : Datapath} (h : d.sptr = s.sptr) (a : StrAddr) :
    Alike k (s.scanStep a) ((s.withDatapath d).scanStep a) := by
  obtain ⟨cmdr, sr, bitcnt, idx, col, sptr⟩ := d
  obtain rfl : sptr = s.sptr := h
  refine ite_related (fun _ => ?_) fun _ => ite_related (fun _ => ?_) fun _ => ?_
  · exact ⟨⟨cmdr, sr, bitcnt, idx, col, a⟩, rfl, fun _ => rfl⟩
  · exact ⟨⟨cmdr, sr, bitcnt, idx, col, s.sptr + 1⟩, rfl, fun _ => rfl⟩
  · exact ⟨⟨cmdr, sr, bitcnt, idx, col, s.sptr⟩, rfl, fun _ => rfl⟩

/-- A turn of the loop of PUTS is taken alike. -/
theorem nextCharStep_alike {s : State} {d : Datapath} (h : d.sptr = s.sptr) : Alike k s.nextCharStep (s.withDatapath d).nextCharStep := by
  obtain ⟨cmdr, sr, bitcnt, idx, col, sptr⟩ := d
  obtain rfl : sptr = s.sptr := h
  refine ite_related (fun _ => ?_) fun _ => ?_
  · exact ⟨⟨cmdr, sr, bitcnt, idx, col, s.sptr⟩, rfl, fun _ => rfl⟩
  · exact ⟨⟨cmdr, sr, bitcnt, idx, col, s.sptr + 1⟩, rfl, fun _ => rfl⟩

/-- An engine step with nothing pending completes the command. -/
theorem engineStep_nil {s : State} (hh : s.hung = false) (hp : s.pending = []) : s.engineStep = s.finish := by
  rw [State.engineStep, if_neg (by simp [hh]), hp]

/-- An engine step is taken alike: a micro-step that reads SPTR finds it live, and so the same in both states. -/
theorem engineStep_alike {s t : State} (h : Alike k s t) (hb : s.busy = true) : Alike k s.engineStep t.engineStep := by
  obtain ⟨d, rfl, hd⟩ := h
  cases hh : s.hung with
  | true =>
    rw [engineStep_hung hh, engineStep_hung (s := s.withDatapath d) hh]
    exact ⟨d, rfl, hd⟩
  | false =>
    cases hp : s.pending with
    | nil =>
      rw [engineStep_nil hh hp, engineStep_nil (s := s.withDatapath d) hh hp]
      exact finish_alike ⟨d, rfl, hd⟩
    | cons m ms =>
      rw [engineStep_cons hh hp, engineStep_cons (s := s.withDatapath d) hh hp]
      have tail : s.load ms |>.ReadsSptr → s.ReadsSptr := fun ⟨_, x, hx, hr⟩ => ⟨hb, x, hp ▸ List.mem_cons_of_mem m hx, hr⟩
      have live (hm : m.readsSptr = true) : d.sptr = s.sptr := hd (.inr ⟨hb, m, hp ▸ List.mem_cons_self, hm⟩)
      cases m with
      | act a u => exact settle_alike (s := ((s.load ms).emit a).update u) ⟨d.update u, rfl, fun hk => hd (hk.imp_right tail)⟩ a
      | scan a => exact scanStep_alike (s := s.load ms) (live rfl) a
      | nextChar => exact nextCharStep_alike (s := s.load ms) (live rfl)
      | abort => exact .of_dead (d' := d) hd rfl rfl (State.not_readsSptr_of_idle rfl)

/-- RST writes every datapath register. -/
theorem resetBlock_alike {s t : State} (h : Alike k s t) : Alike k s.resetBlock t.resetBlock := by
  obtain ⟨d, rfl, -⟩ := h
  exact ⟨s.resetBlock.datapath, rfl, fun _ => rfl⟩

/-- A step is taken alike. -/
theorem step_alike {s t : State} (h : Alike k s t) : AlikeNext k (step s) (step t) := by
  obtain ⟨d, rfl, hd⟩ := h
  have latch : Alike k s.latch (s.withDatapath d).latch := ⟨d, rfl, hd⟩
  show AlikeNext k (match (s.inputAt 0).event with | some .reset => _ | some (.access a) => _ | none => _)
    (match (s.inputAt 0).event with | some .reset => _ | some (.access a) => _ | none => _)
  cases (s.inputAt 0).event with
  | some e =>
    cases e with
    | reset => exact (resetBlock_alike latch).next
    | access a => exact ite_related (fun _ => Alike.next ⟨d, rfl, hd⟩) fun _ => serve_alike latch a
  | none =>
    show AlikeNext k (match s.ready with | some a => _ | none => _) (match s.ready with | some a => _ | none => _)
    cases s.ready with
    | some a => exact serve_alike (s := s.latch.release a) ⟨d, rfl, hd⟩ a
    | none =>
      refine ite_related (fun hb => (engineStep_alike latch hb).next) fun _ => ?_
      show AlikeNext k (match s.cmdQueue with | [] => _ | p :: rest => _) (match s.cmdQueue with | [] => _ | p :: rest => _)
      cases s.cmdQueue with
      | nil => exact latch.next
      | cons p rest => exact acceptWord_alike (s := s.latch.takeWrite p rest) ⟨d, rfl, hd⟩ p.word

/-- Runs are alike. -/
theorem run_alike : ∀ {n : Nat} {s t s' t' : State}, Alike k s t → Host.Core.run Sys2Proof.core n s = .next s' →
    Host.Core.run Sys2Proof.core n t = .next t' → Alike k s' t'
  | 0, s, t, s', t', h, hs, ht => by
    cases hs
    cases ht
    exact h
  | n + 1, s, t, s', t', h, hs, ht => by
    obtain ⟨s₁, t₁, es, et, h₁⟩ := step_alike h
    rw [run_succ n es] at hs
    rw [run_succ n et] at ht
    exact run_alike h₁ hs ht

end

/-- Settles O50: runs are alike, with SPTR the same throughout in the first part, and where it is live in the second. -/
theorem datapathIsUnobservable : Obligations.DatapathIsUnobservable := by
  constructor
  · intro n s₁ s₂ t₁ t₂ h h₁ h₂
    have hsptr : s₁.sptr = s₂.sptr := (congrArg State.sptr h :)
    have start : Alike True s₁ s₂ := ⟨s₂.datapath, State.eq_withDatapath (congrArg State.forgetSptr h), fun _ => hsptr.symm⟩
    obtain ⟨⟨cmdr, sr, bitcnt, idx, col, sptr⟩, rfl, hd⟩ := run_alike start h₁ h₂
    obtain rfl : sptr = t₁.sptr := hd (.inl trivial)
    exact ⟨rfl, rfl, rfl, rfl⟩
  · intro n s₁ s₂ t₁ t₂ hb h h₁ h₂
    have start : Alike False s₁ s₂ :=
      ⟨s₂.datapath, State.eq_withDatapath h, fun hk => absurd (hk.resolve_left id) (State.not_readsSptr_of_idle hb)⟩
    obtain ⟨d, rfl, -⟩ := run_alike start h₁ h₂
    exact ⟨rfl, rfl, rfl, rfl, rfl⟩

end Sys2Proof.Machine
end

section
/-!
PROOF. The acceptance of each command in every state: CMDR, BUSY, the line actions in PENDING, the fault (10_state R28; 40_bus_transport
R104-R114; 41_display_control R126, R131; 42_text_output R142-R151; 43_display_maintenance R160, R164; 60_exceptions R173, R175, R180).
-/

namespace Sys2Proof.Machine

/-- An expansion of line actions, read as those of the spec. -/
theorem map_action_of_actionsOf {ms : List Micro} {as : List LineAction} (h : ∀ m ∈ ms, m.isAct = true) (ha : actionsOf ms = as) :
    ms.map Micro.action = as.map some := by
  rw [map_action_eq h, ha]

/-- A session's micro-steps are its line actions (00_scope R15). -/
theorem map_action_session (addr : Byte) {bs : List (Update × Byte)} {payload : List Byte} (h : bs.map Prod.snd = payload) :
    (session addr bs).map Micro.action = (sessionActions addr payload).map some :=
  map_action_of_actionsOf (session_isAct addr bs) (by rw [actionsOf_session, h])

/-- The opening of a session is its start condition and its address byte. -/
theorem map_action_opening (addr : Byte) :
    (txStart ++ txByte {} addr).map Micro.action = (startActions ++ byteActions addr).map some :=
  map_action_of_actionsOf (openBus_isAct addr) (by simp)

/-- Settles O10: what is written is read off the meanings, the line actions off the sequences' own laws. -/
theorem transportCommandsExpand : Obligations.TransportCommandsExpand :=
  ⟨fun _ addr => ⟨_, rfl, map_action_opening addr⟩,
    fun _ b => ⟨_, rfl, map_action_of_actionsOf (txByte_isAct _ b) (actionsOf_txByte _ b)⟩,
    fun _ => ⟨_, rfl, map_action_of_actionsOf txStop_isAct actionsOf_txStop⟩⟩

/-- CLEAR's three sessions (43_display_maintenance R164). -/
theorem actionsOf_clearExpansion (p : Params) : actionsOf (clearExpansion p) = clearActions p := by
  have home : setcurPayload p 0 0 = [0x00, 0x10, p.pageMarker] := by simp [setcurPayload]
  have count : zeros p.clearCount = List.replicate (128 * p.pageCount) 0x00 := rfl
  simp only [clearExpansion, setcurExpansion, shiftExpansion, actionsOf_append, actionsOf_session, plainBytes_snd, indexedBytes_snd,
    cursorBytes_eq, home, count, shiftBytes, clearActions]

/-- Settles O11: as for the transport commands, each expansion being one session, and CLEAR's three. -/
theorem sessionCommandsExpand : Obligations.SessionCommandsExpand :=
  ⟨fun _ => ⟨_, rfl, map_action_session _ (indexedBytes_snd _ _)⟩,
    fun s c p => ⟨_, rfl, map_action_session _ ((plainBytes_snd _).trans (cursorBytes_eq s.cfg c p))⟩,
    fun _ _ => ⟨_, rfl, map_action_session _ (plainBytes_snd _)⟩,
    fun s => ⟨_, rfl, map_action_of_actionsOf (clearExpansion_isAct s.cfg) (actionsOf_clearExpansion s.cfg)⟩⟩

/-- PUTC where the check does not raise: its session, with the glyph `g` that the mapper gives. -/
theorem execPutc_session {s : State} {c : Byte} {g : List Byte} (hc : (s.cfg.hardenGlyph && !inRange s.cfg c) = false)
    (hg : glyph s.cfg s.inp.draws c = g) : ∃ ms,
      exec (.putc c) s = .next { s with
        cmdr := encode (.putc c), busy := true, pending := ms, faults := faultsAfter s s.session .putc } ∧
      ms.map Micro.action = (sessionActions s.cfg.addrData (0x00 :: g)).map some := by
  refine ⟨putcExpansion s.cfg s.inp.draws c, ?_, map_action_session _ ?_⟩
  · exact congrArg Host.Outcome.next (if_neg (by simp [hc]))
  · rw [charPayload_snd, charBytes, hg]

/-- Settles O12: by what the glyph mapper gives in and out of range. -/
theorem putcExpands : Obligations.PutcExpands := by
  intro s c hlegal
  refine ⟨fun hc => ?_, fun hc hh => ?_, fun hc hh => ?_⟩
  · exact execPutc_session (by simp [hc]) (glyph_of_inRange hlegal _ hc)
  · exact execPutc_session (by simp [hh]) (glyph_of_not_inRange _ hc)
  · have raised : s.startPutc c = (s.accept (encode (.putc c))).raise .outOfRangeCharacter := if_pos (by simp [hc, hh])
    show Host.Outcome.next (s.startPutc c) = _
    rw [raised]
    simp [State.raise, State.accept, State.completion]

/-- Settles O13: by HARDEN_GLYPH, the opening of the session or the pre-scan. -/
theorem putsExpands : Obligations.PutsExpands := by
  intro s a
  refine ⟨fun hh => ⟨txStart ++ txByte {} s.cfg.addrData, ?_, map_action_opening _⟩, fun hh => ?_⟩
  · have begun : s.startPuts a = ((s.accept (encode (.puts a))).load []).beginText a := if_neg (by simp [hh])
    have pending : (((s.accept (encode (.puts a))).load []).beginText a).pending = txStart ++ txByte {} s.cfg.addrData ++ [.nextChar] :=
      List.append_nil _
    show Host.Outcome.next (s.startPuts a) = _
    rw [begun, ← pending]
    rfl
  · exact congrArg Host.Outcome.next (if_pos hh)

end Sys2Proof.Machine
end

section
/-!
PROOF. The register window: the fields of STATUS, the effect of each access, the step that accepts a word (10_state R33-R37; 20_memory
R64; 30_encoding R88; 40_bus_transport R102; 60_exceptions R172).
-/

namespace Sys2Proof.Machine

/-- The bits of a register with one condition in it. -/
theorem getLsbD_bitAt (b : Bool) {j : Nat} (hj : j < 32) (k : Nat) : (bitAt b j).getLsbD k = (b && k == j) := by
  cases b with
  | false => simp [bitAt]
  | true =>
    have place : (k < 32 ∧ j ≤ k) ∧ k - j = 0 ↔ k = j := by omega
    rw [Bool.eq_iff_iff]
    simpa [bitAt] using place

/-- Each bit of STATUS (10_state R33). -/
theorem State.getLsbD_status (s : State) (k : Nat) : s.status.getLsbD k =
    (s.busy && k == 0 || s.session && k == 1 || s.errIll && k == 3 || s.errOor && k == 4 || s.errTimeout && k == 5 ||
      (s.sdaDrv == .rel) && k == 6 || (s.sclDrv == .rel) && k == 7 || s.cfg.hardenGlyph && k == 8 ||
      (s.cfg.stallPolicy == .timeout) && k == 9) := by
  simp [State.status, BitVec.getLsbD_or, getLsbD_bitAt]

/-- STATUS after reset (10_state R36). -/
theorem status_reset : State.reset.status = resetStatus State.reset.cfg := by
  show bitAt false 0 ||| bitAt false 1 ||| bitAt false 3 ||| bitAt false 4 ||| bitAt false 5 ||| bitAt true 6 ||| bitAt true 7 |||
    bitAt Config.params.hardenGlyph 8 ||| bitAt (Config.params.stallPolicy == .timeout) 9 = resetStatus Config.params
  unfold resetStatus
  cases Config.params.hardenGlyph <;> cases Config.params.stallPolicy <;> decide

/-- Settles O33: bit by bit by `State.getLsbD_status`. -/
theorem statusFields : Obligations.StatusFields := by
  refine ⟨fun s => ?_, status_reset, fun s => ?_⟩
  · refine ⟨?_, ?_, ?_, ?_, ?_, ?_, ?_, ?_, ?_, fun k hk => ?_⟩
    case refine_10 =>
      have hne : ∀ j < 10, j ≠ 2 → (k == j) = false := fun j hj h2 => beq_false_of_ne (by omega)
      simp [State.getLsbD_status, hne]
    all_goals
      rw [State.getLsbD_status]
      simp
  · simp [State.sdaWire, State.sclWire]

/-- Settles O39: each value is a field of `State.reset`. -/
theorem powerOnState : Obligations.PowerOnState := ⟨rfl, rfl, rfl, rfl, rfl, rfl, rfl, rfl, rfl⟩

/-- The address of CMD is HOST_BASE. -/
theorem cmdAddr_eq (p : Params) : cmdAddr p = p.hostBase := rfl

/-- A 32-bit access at HOST_BASE is one of CMD (10_state R37). -/
theorem serve_cmd {s : State} {a : HostAccess} (hw : a.width = 32) (ha : a.addr = s.cfg.hostBase) : s.serve a = s.accessCmd a :=
  if_pos ⟨hw, ha⟩

/-- A 32-bit access at HOST_BASE + 4 is one of STATUS (10_state R37). -/
theorem serve_status {s : State} {a : HostAccess} (hw : a.width = 32) (ha : a.addr = s.cfg.hostBase + 4) :
    s.serve a = .next (s.accessStatus a) := by
  have hne : a.addr ≠ cmdAddr s.cfg := by rw [cmdAddr_eq]; omega
  exact (if_neg fun h => hne h.2).trans (if_pos ⟨hw, ha⟩)

/-- Any other access is unmapped (10_state R37). -/
theorem serve_unmapped {s : State} {a : HostAccess} (h : a.width ≠ 32 ∨ (a.addr ≠ s.cfg.hostBase ∧ a.addr ≠ s.cfg.hostBase + 4)) :
    s.serve a = .next (s.recordIf true (.unmappedAccess ((a.addr : Int) - s.cfg.hostBase) a.width)) := by
  have other : ∀ x, x = s.cfg.hostBase ∨ x = s.cfg.hostBase + 4 → ¬(a.width = 32 ∧ a.addr = x) := by
    rintro x hx ⟨hw, ha⟩
    omega
  exact (if_neg (other _ (.inl rfl))).trans (if_neg (other _ (.inr rfl)))

/-- The state in which an access takes effect has the configuration of the state before the step. -/
theorem State.Serves.cfg {s s' : State} {a : HostAccess} (h : s.Serves a s') : s'.cfg = s.cfg := (congrArg State.cfg h.eq :)

/-- Settles O34: by `serve_status`. -/
theorem statusAccess : Obligations.StatusAccess := by
  intro s s' a h hw ha
  have served : step s = .next (s'.accessStatus a) := h.step.trans (serve_status hw (h.cfg ▸ ha))
  refine ⟨fun hr => ?_, fun hwr => ⟨(s'.clearErrors a.data).answer (.statusWritten a.ctx), ?_, rfl, ?_⟩⟩
  · have status : s'.status = s.status := (congrArg State.status h.eq :)
    rw [served, State.accessStatus, if_neg (by simp [hr]), status]
    rfl
  · rw [served, State.accessStatus, if_pos hwr]
  · simp

/-- An acceptance that leaves the block idle has raised an error. -/
theorem acceptWord_raised {w : Word} {s t : State} (h : acceptWord w s = .next t) (hb : t.busy = false) :
    t.errIll = true ∨ t.errOor = true := by
  rcases acceptWord_cases h with ⟨i, -, hx⟩ | ⟨-, -, rfl⟩
  · rcases (exec_accepted hx).outcome with ⟨hb', -⟩ | ⟨-, -, he, -⟩
    · exact absurd (hb'.symm.trans hb) (by decide)
    · exact .inr he
  · exact .inl (by simp [State.acceptIllegal])

/-- Settles O35: by `serve_cmd`; what the acceptance leaves is `acceptWord_worked`. -/
theorem cmdAccess : Obligations.CmdAccess := by
  intro s s' a h hw ha
  have served : step s = s'.accessCmd a := h.step.trans (serve_cmd hw (h.cfg ▸ ha))
  have busy : s'.busy = s.busy := (congrArg State.busy h.eq :)
  have queue : s'.cmdQueue = s.cmdQueue := (congrArg State.cmdQueue h.eq :)
  refine ⟨fun hr => ?_, fun hwr hb hq => ?_, fun hwr hh => ?_⟩
  · rw [served, State.accessCmd, if_neg (by simp [hr])]
    rfl
  · have accepted : step s = acceptWord a.data (s'.carry a.ctx) := by
      rw [served, State.accessCmd, if_pos hwr, presentWrite, if_pos ⟨busy.trans hb, queue.trans hq⟩]
    obtain ⟨t, ht⟩ := acceptWord_next a.data (s'.carry a.ctx)
    have hwork := acceptWord_worked ht
    refine ⟨accepted, t, accepted.trans ht, hwork.cmdr, hwork.cmdQueue.trans (queue.trans hq), ?_⟩
    rcases hwork.progress with ⟨hb', hc, -⟩ | ⟨hb', hc, -⟩
    · exact .inl ⟨hb', hc⟩
    · exact .inr ⟨hb', hc, acceptWord_raised ht hb'⟩
  · have held : ¬(s'.busy = false ∧ s'.cmdQueue = []) := by
      rw [busy, queue]
      rintro ⟨hb, hq⟩
      simp [hb, hq] at hh
    rw [served, State.accessCmd, if_pos hwr, presentWrite, if_neg held]
    rfl

/-- Settles O37: by `serve_unmapped`. -/
theorem unmappedAccessHasNoEffect : Obligations.UnmappedAccessHasNoEffect := by
  intro s s' a h ha
  have faults : s'.faults = s.faults := (congrArg State.faults h.eq :)
  rw [h.step, serve_unmapped (h.cfg ▸ ha), ← h.cfg, ← faults]
  rfl

/-- Settles O8: by `State.Accepts.step`. -/
theorem stepRunsDecodedInstruction : Obligations.StepRunsDecodedInstruction := by
  intro s s' c w i h hd
  rw [h.step, acceptWord, hd]

end Sys2Proof.Machine
end

section
/-!
PROOF. A canonical string ROM is determined by what its addresses read (20_memory R59, log entry 15).
-/

namespace Sys2Proof.Machine

/-- The byte at a canonical ROM's first cell is read there, and is not the one that an address without a cell reads as. -/
theorem Memory.read_first_ne_zero {lo a : Nat} {c : Byte} {m : List Host.Cell} (h : Memory.wfFrom lo ((a, c) :: m) = true) :
    a < 65536 ∧ Memory.read ((a, c) :: m) a ≠ 0 := by
  obtain ⟨-, ha, hc, -⟩ := Memory.wfFrom_cons_iff.mp h
  exact ⟨ha, (Memory.read_cons_self a c m).symm ▸ hc⟩

/-- Canonical ROMs that read alike have their first cells at one address: at the lower of two the other ROM reads 0x00. -/
theorem Memory.first_le_of_read_eq {lo lo' a a' : Nat} {c c' : Byte} {m m' : List Host.Cell} (h : Memory.wfFrom lo ((a, c) :: m) = true)
    (h' : Memory.wfFrom lo' ((a', c') :: m') = true)
    (hr : ∀ x < 65536, Memory.read ((a, c) :: m) x = Memory.read ((a', c') :: m') x) : a' ≤ a := by
  obtain ⟨ha, hne⟩ := Memory.read_first_ne_zero h
  obtain ⟨-, ha', hc', htail⟩ := Memory.wfFrom_cons_iff.mp h'
  by_contra hlt
  have canonical : Memory.wfFrom a' ((a', c') :: m') = true := Memory.wfFrom_cons_iff.mpr ⟨Nat.le_refl a', ha', hc', htail⟩
  exact hne ((hr a ha).trans (Memory.read_below canonical (Nat.lt_of_not_le hlt)))

/-- Canonical ROMs that read alike have the same cells, one after another. -/
theorem Memory.eq_of_read_eq : ∀ {m₁ m₂ : List Host.Cell} {lo₁ lo₂ : Nat}, Memory.wfFrom lo₁ m₁ = true → Memory.wfFrom lo₂ m₂ = true →
    (∀ x < 65536, Memory.read m₁ x = Memory.read m₂ x) → m₁ = m₂
  | [], [], _, _, _, _, _ => rfl
  | [], (a, c) :: m, _, _, _, h, hr => by
    obtain ⟨ha, hne⟩ := Memory.read_first_ne_zero h
    exact absurd (hr a ha).symm hne
  | (a, c) :: m, [], _, _, h, _, hr => by
    obtain ⟨ha, hne⟩ := Memory.read_first_ne_zero h
    exact absurd (hr a ha) hne
  | (a, c) :: m, (a', c') :: m', _, _, h, h', hr => by
    obtain rfl : a = a' := Nat.le_antisymm (Memory.first_le_of_read_eq h' h fun x hx => (hr x hx).symm) (Memory.first_le_of_read_eq h h' hr)
    obtain ⟨-, ha, -, htail⟩ := Memory.wfFrom_cons_iff.mp h
    obtain ⟨-, -, -, htail'⟩ := Memory.wfFrom_cons_iff.mp h'
    obtain rfl : c = c' := by simpa using hr a ha
    have tails : ∀ x < 65536, Memory.read m x = Memory.read m' x := by
      intro x hx
      by_cases hxa : x = a
      · rw [hxa, Memory.read_below htail (Nat.lt_succ_self a), Memory.read_below htail' (Nat.lt_succ_self a)]
      · simpa only [Memory.read_cons_of_ne hxa] using hr x hx
    rw [Memory.eq_of_read_eq htail htail' tails]

/-- Settles O56: by `Memory.eq_of_read_eq`. -/
theorem romIsDeterminedByItsBytes : Obligations.RomIsDeterminedByItsBytes :=
  fun _ _ h₁ h₂ hr => Memory.eq_of_read_eq h₁ h₂ hr

end Sys2Proof.Machine
end

section
/-!
PROOF. Nothing writes the configuration (10_state R41, 20_memory R57).
-/

namespace Sys2Proof.Machine

/-- An access that takes effect leaves the configuration alone. -/
theorem Served.cfg {s t : State} {a : HostAccess} (h : Served s a t) : t.cfg = s.cfg := by
  cases h with
  | held _ _ | cmdRead _ | statusWrite _ _ | statusRead _ | unmapped => rfl

/-- No step changes the configuration, not a reset either. -/
theorem step_cfg {s t : State} (h : step s = .next t) : t.cfg = s.cfg := by
  rcases step_cases s with ⟨-, e⟩ | ⟨a, -, -, e⟩ | ⟨a, r, t', hr, ht, e⟩ | ⟨c, w, s', hA, e⟩ | ⟨-, -, -, e⟩ | ⟨-, -, -, -, e⟩ <;>
    rw [e] at h
  · cases h
    rfl
  · cases h
    rfl
  · cases h
    exact ht.cfg.trans hr.cfg
  · exact (acceptWord_worked h).cfg.trans (congrArg State.cfg hA.eq :)
  · cases h
    exact (engineStep_worked s.latch).cfg
  · cases h
    rfl

/-- What every step keeps relates the ends of every run. -/
theorem run_induction {R : State → State → Prop} (refl : ∀ s, R s s) (trans : ∀ {s r t}, R s r → R r t → R s t)
    (keeps : ∀ {s t}, step s = .next t → R s t) :
    ∀ {n : Nat} {s t : State}, Host.Core.run Sys2Proof.core n s = .next t → R s t
  | 0, s, t, h => by
    cases (run_zero s).symm.trans h
    exact refl s
  | n + 1, s, t, h => by
    obtain ⟨r, hr⟩ := step_next s
    exact trans (keeps hr) (run_induction refl trans keeps ((run_succ n hr).symm.trans h))

/-- Settles O44: by `step_cfg`. -/
theorem configurationIsConstant : Obligations.ConfigurationIsConstant :=
  fun _ _ _ => run_induction (R := fun s t => t.cfg = s.cfg) (fun _ => rfl) (fun h h' => h'.trans h) step_cfg

/-- A run takes one input a step, whatever it does. -/
theorem run_inputAt : ∀ {n : Nat} {s t : State}, Host.Core.run Sys2Proof.core n s = .next t → ∀ k, t.inputAt k = s.inputAt (n + k)
  | 0, s, t, h, k => by
    cases (run_zero s).symm.trans h
    rw [Nat.zero_add]
  | n + 1, s, t, h, k => by
    obtain ⟨r, hr⟩ := step_next s
    rw [run_inputAt ((run_succ n hr).symm.trans h), step_inputAt hr, Nat.add_right_comm]

end Sys2Proof.Machine
end

section
/-!
PROOF. The word of a command decodes to it, so the step that accepts the word executes the command (30_encoding R82-R84, R88).
-/

namespace Sys2Proof

/-- A word that a row hits has that row's opcode. -/
theorem opField_of_hits {r : OpcodeRow} (hr : r ∈ opcodeMap) {w : Word} (hw : r.hits w = true) : opField w = opField r.pattern := by
  have covers : ∀ r ∈ opcodeMap, opField r.mask = BitVec.allOnes 4 := by decide
  have masked : w &&& r.mask = r.pattern := beq_iff_eq.mp hw
  calc opField w = opField w &&& opField r.mask := by rw [covers r hr, BitVec.and_allOnes]
    _ = opField (w &&& r.mask) := BitVec.extractLsb'_and.symm
    _ = opField r.pattern := by rw [masked]

/-- A word that a row hits decodes to that row's command: no other row has its opcode. -/
theorem decode_of_hits {r : OpcodeRow} (hr : r ∈ opcodeMap) {w : Word} (hw : r.hits w = true) :
    decode w = .ok (assembleOperands r.mnemonic w) := by
  have opcodes_differ : ∀ r₁ ∈ opcodeMap, ∀ r₂ ∈ opcodeMap, opField r₁.pattern = opField r₂.pattern → r₁ = r₂ := by decide
  obtain ⟨r', hf⟩ : ∃ r', opcodeMap.find? (·.hits w) = some r' :=
    Option.isSome_iff_exists.mp (List.find?_isSome.mpr ⟨r, hr, hw⟩)
  have hr' := List.mem_of_find?_eq_some hf
  have hw' : r'.hits w = true := List.find?_some (p := fun r : OpcodeRow => r.hits w) hf
  obtain rfl : r' = r := opcodes_differ r' hr' r hr ((opField_of_hits hr' hw').symm.trans (opField_of_hits hr hw))
  rw [decode, hf]

/-- The operands of a command's word are the command's. -/
theorem assembleOperands_encode (i : Instr) : assembleOperands i.mnemonic (encode i) = i := by
  cases i <;> simp [assembleOperands, Instr.mnemonic, encode]

/-- Some row of a command's own hits its word. -/
theorem exists_row_hits (i : Instr) : Laws.RowMatch.Statement i := by
  cases i with
  | openBus a => exact Laws.RowMatch.openBus a
  | writeByte b => exact Laws.RowMatch.writeByte b
  | closeBus => exact Laws.RowMatch.closeBus
  | init => exact Laws.RowMatch.init
  | setcur c p => exact Laws.RowMatch.setcur c p
  | putc c => exact Laws.RowMatch.putc c
  | puts a => exact Laws.RowMatch.puts a
  | shift o => exact Laws.RowMatch.shift o
  | clear => exact Laws.RowMatch.clear

/-- The word of a command decodes to the command. -/
theorem decode_encode (i : Instr) : decode (encode i) = .ok i := by
  obtain ⟨r, hr, hm, hw⟩ := exists_row_hits i
  rw [decode_of_hits hr hw, hm, assembleOperands_encode]

namespace Machine

/-- The step that accepts a command's word executes the command. -/
theorem State.Accepts.step_exec {s s' : State} {c : Nat} {i : Instr} (h : s.Accepts c (encode i) s') :
    Machine.step s = exec i s' :=
  stepRunsDecodedInstruction s s' c (encode i) i h (decode_encode i)

/-- A write that is accepted is the one that carries the command. -/
theorem State.Accepts.carrier {s s' : State} {c : Nat} {w : Word} (h : s.Accepts c w s') : s'.carrier = some c :=
  (congrArg State.carrier h.eq :)

end Machine

end Sys2Proof
end

section
/-!
PROOF. A command whose expansion is line actions alone runs to its end, one action a step, when the peripheral answers (10_state R28, R32,
R35; 60_exceptions R190; log entry 6). PUTC does so in one data session (42_text_output R143-R146).
-/

namespace Sys2Proof.Machine

/-- A command that is accepted with the line actions `ms` as its expansion runs to its end. -/
theorem command_completes {s s' : State} {c : Nat} {i : Instr} {ms : List Micro} {faults : List Fault}
    (hA : s.Accepts c (encode i) s')
    (hx : exec i s' = .next { s' with cmdr := encode i, busy := true, pending := ms, faults := faults })
    (hact : ∀ m ∈ ms, m.isAct = true) (hne : ms ≠ []) (hh : s'.hung = false) (hc : s'.Calm ms.length) :
    ∃ t, Host.Core.run Sys2Proof.core (1 + ms.length) s = .next t ∧ Completed s' t c i (actionsOf ms) (s'.lines.run ms) faults := by
  have hstep := hA.step_exec.trans hx
  obtain ⟨t, ht, hd⟩ := drain (s := { s' with cmdr := encode i, busy := true, pending := ms, faults := faults }) (rest := [])
    hact rfl hh (List.append_nil ms).symm hne ⟨hc.1, hc.2⟩
  refine ⟨t, ?_, ?_⟩
  · rw [Nat.add_comm, run_succ _ hstep, ht]
  · exact {
      trace := hd.trace, lines := hd.lines, busy := hd.busy, hung := hd.hung, pending := hd.pending, cmdr := hd.cmdr
      errIll := hd.errIll, errOor := hd.errOor, errTimeout := hd.errTimeout, cmdQueue := hd.cmdQueue, carrier := hd.carrier
      waiting := hd.waiting, faults := hd.faults, riseOrder := hd.riseOrder, cfg := hd.cfg
      hostLog := by simpa [State.completion, hA.carrier] using hd.hostLog }

/-- The number of micro-steps of a session (40_bus_transport R107). -/
theorem session_length (addr : Byte) (bs : List (Update × Byte)) :
    (session addr bs).length = sessionActionCount addr (bs.map Prod.snd) := by
  rw [← length_actionsOf (session_isAct addr bs), actionsOf_session]
  simp only [sessionActions, List.length_append, byteActions_length, flatMap_byteActions_length, sessionActionCount, startActions,
    stopActions, List.length_cons, List.length_nil]

/-- A command that is accepted with one session as its expansion sends it and leaves the lines idle. -/
theorem session_command_completes {s s' : State} {c : Nat} {i : Instr} {addr : Byte} {bs : List (Update × Byte)} {payload : List Byte}
    {faults : List Fault} (hA : s.Accepts c (encode i) s')
    (hx : exec i s' = .next { s' with cmdr := encode i, busy := true, pending := session addr bs, faults := faults })
    (hp : bs.map Prod.snd = payload) (hh : s'.hung = false) (hc : s'.Calm (sessionActionCount addr payload)) :
    ∃ t, Host.Core.run Sys2Proof.core (1 + sessionActionCount addr payload) s = .next t ∧
      Completed s' t c i (sessionActions addr payload) Lines.idle faults := by
  have length := session_length addr bs
  rw [hp] at length
  have h := command_completes hA hx (session_isAct addr bs) (session_ne_nil addr bs) hh (by rwa [length])
  rwa [length, actionsOf_session, hp, Lines.run_session] at h

/-- PUTC where the check does not raise is accepted with its session as its expansion (42_text_output R145). -/
theorem exec_putc {s : State} {c : Byte} (hc : (s.cfg.hardenGlyph && !inRange s.cfg c) = false) :
    exec (.putc c) s = .next { s with
      cmdr := encode (.putc c), busy := true, pending := session s.cfg.addrData (charPayload s.cfg s.inp.draws c)
      faults := faultsAfter s s.session .putc } :=
  congrArg Host.Outcome.next (if_neg (by simp [hc]))

/-- Settles O19: by `session_command_completes`, with what the glyph mapper gives in and out of range. -/
theorem putcRunsToItsEnd : Obligations.PutcRunsToItsEnd := by
  intro s s' x c bs hA hh hlegal hbs hc
  have payload (g : List Byte) (hg : glyph s'.cfg s'.inp.draws c = g) :
      (charPayload s'.cfg s'.inp.draws c).map Prod.snd = 0x00 :: g := by
    rw [charPayload_snd, charBytes, hg]
  rcases hbs with ⟨hin, rfl⟩ | ⟨hout, hsoft, rfl⟩
  · exact session_command_completes hA (exec_putc (by simp [hin])) (payload _ (glyph_of_inRange hlegal _ hin)) hh hc
  · exact session_command_completes hA (exec_putc (by simp [hsoft])) (payload _ (glyph_of_not_inRange _ hout)) hh hc

end Sys2Proof.Machine
end

section
/-!
PROOF. One turn of the loop of PUTS at a character that is not the sentinel (42_text_output R150, R153; 20_memory R58, R61; log entry 7).
-/

namespace Sys2Proof.Machine

/-- SPTR goes on modulo 65536 (20_memory R61). -/
theorem sptr_add_ofNat (a : StrAddr) (n : Nat) : a + BitVec.ofNat 16 n = BitVec.ofNat 16 ((a.toNat + n) % 65536) := by
  apply BitVec.eq_of_toNat_eq
  simp

/-- The engine's step at a character: its six bytes go before what is pending, with the draws of the step for a glyph outside the table. -/
theorem step_nextChar {s : State} {ms : List Micro} (h : s.EngineMoves) (hp : s.pending = .nextChar :: ms)
    (hc : strRead s.cfg s.sptr ≠ Config.sentinel) :
    step s = .next { s.latch with
      sptr := s.sptr + 1
      pending := txBytes (charPayload s.cfg (s.inputAt 0).draws (strRead s.cfg s.sptr)) ++ .nextChar :: ms } := by
  rcases nextCharStep_cases (s.latch.load ms) with ⟨he, -⟩ | ⟨-, e⟩
  · exact absurd he hc
  · rw [step_perform h hp, State.perform, e, State.push, List.append_assoc]
    rfl

/-- Settles O31: by `step_nextChar`, with what the glyph mapper gives in and out of range. -/
theorem putsSendsOneCharacter : Obligations.PutsSendsOneCharacter := by
  intro s ms bs h hp hlegal hc hbs
  have glyph_eq : glyph s.cfg (s.inputAt 0).draws (strRead s.cfg s.sptr) = bs := by
    rcases hbs with ⟨hin, rfl⟩ | ⟨hout, rfl⟩
    · exact glyph_of_inRange hlegal _ hin
    · exact glyph_of_not_inRange _ hout
  refine ⟨txBytes (charPayload s.cfg (s.inputAt 0).draws (strRead s.cfg s.sptr)), ?_, map_action_of_actionsOf (txBytes_isAct _) ?_⟩
  · rw [← sptr_add_ofNat]
    exact step_nextChar h hp hc
  · rw [actionsOf_txBytes, charPayload_snd, charBytes, glyph_eq]

end Sys2Proof.Machine
end

section
/-!
PROOF. The pre-scan in a string ROM without a sentinel never ends: every step before reset leaves the command in progress where it stands
(42_text_output R152, 20_memory R61, log entry 30).
-/

namespace Sys2Proof.Machine

/-- The command in progress goes on: its CMD write is not complete, and no other completed nor was an error raised on the way from `s` to `t`. -/
structure GoesOn (s t : State) : Prop where
  busy : t.busy = s.busy
  carrier : t.carrier = s.carrier
  cfg : t.cfg = s.cfg
  errOor : t.errOor = true → s.errOor = true
  completions : t.hostLog.countP HostAnswer.isCompletion = s.hostLog.countP HostAnswer.isCompletion

/-- The command in progress goes on, and stands where it stood: nothing was emitted, and the same is pending. -/
structure StandsStill (s t : State) : Prop extends GoesOn s t where
  pending : t.pending = s.pending
  trace : t.trace = s.trace
  lines : t.lines = s.lines

theorem GoesOn.refl (s : State) : GoesOn s s := ⟨rfl, rfl, rfl, id, rfl⟩

theorem GoesOn.trans {s r t : State} (h : GoesOn s r) (h' : GoesOn r t) : GoesOn s t where
  busy := h'.busy.trans h.busy
  carrier := h'.carrier.trans h.carrier
  cfg := h'.cfg.trans h.cfg
  errOor := h.errOor ∘ h'.errOor
  completions := h'.completions.trans h.completions

theorem StandsStill.refl (s : State) : StandsStill s s := ⟨.refl s, rfl, rfl, rfl⟩

theorem StandsStill.trans {s r t : State} (h : StandsStill s r) (h' : StandsStill r t) : StandsStill s t where
  toGoesOn := h.toGoesOn.trans h'.toGoesOn
  pending := h'.pending.trans h.pending
  trace := h'.trace.trans h.trace
  lines := h'.lines.trans h.lines

/-- An access that takes effect and is no accepted CMD write leaves the command in progress where it stands, and completes none. -/
theorem State.Serves.standsStill {s r t : State} {a : HostAccess} (h : s.Serves a r) (ht : Served r a t) : StandsStill s t := by
  rw [h.eq] at ht
  cases ht with
  | held _ _ | unmapped => exact ⟨⟨rfl, rfl, rfl, id, rfl⟩, rfl, rfl, rfl⟩
  | cmdRead _ | statusRead _ => exact ⟨⟨rfl, rfl, rfl, id, by simp [HostAnswer.isCompletion]⟩, rfl, rfl, rfl⟩
  | statusWrite _ _ =>
    exact ⟨⟨rfl, rfl, rfl, fun he => (Bool.and_eq_true_iff.mp he).1, by simp [HostAnswer.isCompletion]⟩, rfl, rfl, rfl⟩

/-- A step of a busy block without RST is the host's, which leaves the command in progress where it stands, or the engine's. -/
theorem busy_step {s : State} (hb : s.busy = true) (hr : (s.inputAt 0).event ≠ some .reset) :
    (∃ t, step s = .next t ∧ t.hung = s.hung ∧ StandsStill s t) ∨
    ((s.inputAt 0).event = none ∧ s.ready = none ∧ step s = .next s.latch.engineStep) := by
  rcases step_cases s with ⟨he, -⟩ | ⟨a, -, -, e⟩ | ⟨a, r, t, hs, ht, e⟩ | ⟨c, w, s', hA, -⟩ | ⟨he, hr, -, e⟩ | ⟨-, -, hi, -⟩
  · exact absurd he hr
  · exact .inl ⟨_, e, rfl, ⟨rfl, rfl, rfl, id, rfl⟩, rfl, rfl, rfl⟩
  · refine .inl ⟨t, e, ?_, hs.standsStill ht⟩
    rw [hs.eq] at ht
    cases ht <;> rfl
  · exact absurd (hb.symm.trans hA.1) (by decide)
  · exact .inr ⟨he, hr, e⟩
  · exact absurd (hb.symm.trans hi) (by decide)

/-- In a ROM without a sentinel the pre-scan passes over any character (log entry 30). -/
theorem scanStep_of_no_sentinel {s : State} (hns : ∀ b, strRead s.cfg b ≠ Config.sentinel) (a : StrAddr) :
    s.scanStep a = (s.setSptr (s.sptr + 1)).push [.scan a] := by
  rcases scanStep_cases s a with ⟨he, -⟩ | ⟨-, -, h⟩ | ⟨-, -, hsent, -⟩
  · exact absurd he (hns s.sptr)
  · exact h
  · obtain ⟨b, hb⟩ := (hasSentinel_iff s.cfg).mp hsent
    exact absurd hb (hns b)

/-- The engine's step in such a pre-scan writes SPTR alone. -/
theorem step_scan_of_no_sentinel {s : State} {a : StrAddr} {ms : List Micro} (h : s.EngineMoves) (hp : s.pending = .scan a :: ms)
    (hns : ∀ b, strRead s.cfg b ≠ Config.sentinel) : step s = .next { s.latch with sptr := s.sptr + 1 } := by
  have passed : (s.latch.load ms).scanStep a = { s.latch with sptr := s.sptr + 1, pending := .scan a :: ms } :=
    scanStep_of_no_sentinel (s := s.latch.load ms) hns a
  rw [step_perform h hp, State.perform, passed, ← hp]
  rfl

/-- Every step before reset leaves such a pre-scan where it stands, in a hung engine too. -/
theorem scan_step_standsStill {s : State} {a : StrAddr} {ms : List Micro} (hb : s.busy = true) (hp : s.pending = .scan a :: ms)
    (hns : ∀ b, strRead s.cfg b ≠ Config.sentinel) (hr : (s.inputAt 0).event ≠ some .reset) :
    ∃ t, step s = .next t ∧ StandsStill s t := by
  rcases busy_step hb hr with ⟨t, h, -, ht⟩ | ⟨he, hready, h⟩
  · exact ⟨t, h, ht⟩
  · cases hh : s.hung with
    | true =>
      rw [engineStep_hung (s := s.latch) hh] at h
      exact ⟨_, h, ⟨rfl, rfl, rfl, id, rfl⟩, rfl, rfl, rfl⟩
    | false => exact ⟨_, step_scan_of_no_sentinel ⟨he, hready, hb, hh⟩ hp hns, ⟨rfl, rfl, rfl, id, rfl⟩, rfl, rfl, rfl⟩

/-- RST does not come in the steps after the present one. -/
theorem State.NoReset.step {s t : State} {n : Nat} (h : s.NoReset (n + 1)) (ht : step s = .next t) : t.NoReset n := by
  intro k hk
  rw [step_inputAt ht]
  exact h (k + 1) (by omega)

/-- Such a pre-scan never ends before reset. -/
theorem scan_run_standsStill : ∀ {n : Nat} {s : State} {a : StrAddr} {ms : List Micro}, s.busy = true → s.pending = .scan a :: ms →
    (∀ b, strRead s.cfg b ≠ Config.sentinel) → s.NoReset n →
    ∃ t, Host.Core.run Sys2Proof.core n s = .next t ∧ StandsStill s t
  | 0, s, _, _, _, _, _, _ => ⟨s, run_zero s, .refl s⟩
  | n + 1, s, a, ms, hb, hp, hns, hr => by
    obtain ⟨r, hstep, hsr⟩ := scan_step_standsStill hb hp hns (hr 0 (Nat.succ_pos n))
    obtain ⟨t, hrun, hrt⟩ := scan_run_standsStill (hsr.busy.trans hb) (hsr.pending.trans hp) (hsr.cfg ▸ hns) (hr.step hstep)
    exact ⟨t, (run_succ n hstep).trans hrun, hsr.trans hrt⟩

/-- Left to itself such a pre-scan goes round the ROM. -/
theorem scan_run_sptr : ∀ {n : Nat} {s t : State} {a : StrAddr} {ms : List Micro}, s.busy = true → s.hung = false →
    s.pending = .scan a :: ms → (∀ b, strRead s.cfg b ≠ Config.sentinel) → s.Calm n →
    Host.Core.run Sys2Proof.core n s = .next t → t.sptr = s.sptr + BitVec.ofNat 16 n
  | 0, s, t, _, _, _, _, _, _, _, h => by
    cases (run_zero s).symm.trans h
    simp
  | n + 1, s, t, a, ms, hb, hh, hp, hns, hc, h => by
    have hstep := step_scan_of_no_sentinel ⟨(hc.2 0 (Nat.succ_pos n)).1, hc.1, hb, hh⟩ hp hns
    have calm : State.Calm { s.latch with sptr := s.sptr + 1 } n := ⟨hc.1, hc.2.shift (step_inputAt hstep)⟩
    rw [scan_run_sptr (s := { s.latch with sptr := s.sptr + 1 }) hb hh hp hns calm ((run_succ n hstep).symm.trans h)]
    show s.sptr + 1 + BitVec.ofNat 16 n = _
    rw [Nat.add_comm n 1, BitVec.ofNat_add, BitVec.add_assoc]
    rfl

/-- Settles O59: the step by `step_scan_of_no_sentinel`, the run by `scan_run_standsStill` and `scan_run_sptr`. -/
theorem sentinelFreeScanNeverEnds : Obligations.SentinelFreeScanNeverEnds := by
  refine ⟨fun s a ms h hp hns => ?_, fun s a ms n hb hh hp hns hr => ?_⟩
  · rw [← sptr_add_ofNat]
    exact step_scan_of_no_sentinel h hp hns
  · obtain ⟨t, ht, still⟩ := scan_run_standsStill hb hp hns hr
    refine ⟨t, ht, still.busy.trans hb, still.pending, still.carrier, still.trace, still.lines, still.errOor, still.completions, ?_⟩
    intro hc
    rw [← sptr_add_ofNat]
    exact scan_run_sptr hb hh hp hns hc ht

end Sys2Proof.Machine
end

section
/-!
PROOF. A PUTS whose string ROM holds no sentinel never ends: without HARDEN_GLYPH its loop goes on with the next character after each
(42_text_output R150-R152, 20_memory R61, 70_reset R218).
-/

namespace Sys2Proof.Machine

/-- Micro-steps that read as line actions of the spec are line actions. -/
theorem isAct_of_map_action {ms : List Micro} {as : List LineAction} (h : ms.map Micro.action = as.map some) :
    ∀ m ∈ ms, m.isAct = true := by
  intro m hm
  obtain ⟨a, -, ha⟩ := List.mem_map.mp (h ▸ List.mem_map_of_mem hm)
  rw [Micro.isAct, ← ha]
  rfl

/-- Micro-steps that read as line actions of the spec perform them. -/
theorem actionsOf_of_map_action {ms : List Micro} {as : List LineAction} (h : ms.map Micro.action = as.map some) : actionsOf ms = as :=
  calc actionsOf ms = (ms.map Micro.action).filterMap id := by rw [List.filterMap_map]; rfl
    _ = as := by rw [h, List.filterMap_map]; exact List.filterMap_some

/-! Whatever comes before reset. -/

/-- What is pending is line actions and then the loop of PUTS. -/
def State.InText (s : State) : Prop := ∃ ms, s.pending = ms ++ [.nextChar] ∧ ∀ m ∈ ms, m.isAct = true

/-- A line action before the last of PENDING does not end the command where no stall aborts it. -/
theorem act_goesOn {s : State} {a : LineAction} {u : Update} {ms : List Micro} (hne : ms ≠ [])
    (hstall : s.cfg.stallPolicy = .none ∨ s.inp.draws.stall = false) :
    GoesOn s ((((s.load ms).emit a).update u).settle a) ∧ ((((s.load ms).emit a).update u).settle a).pending = ms := by
  rcases State.settle_cases (((s.load ms).emit a).update u) a with h | ⟨-, -, -, -, h⟩ | ⟨-, hs, hp, h⟩
  · rw [h]
    exact ⟨⟨by simp [hne], by simp [hne], rfl, id, by simp [hne]⟩, rfl⟩
  · rw [h]
    exact ⟨⟨rfl, rfl, rfl, id, rfl⟩, rfl⟩
  · rcases hstall with hn | hf
    · exact absurd (hn.symm.trans hp) (by decide)
    · exact absurd (hf.symm.trans hs) (by decide)

/-- Every step before reset leaves a PUTS in its text, in a ROM without a sentinel and where no stall aborts it. -/
theorem text_step_goesOn {s : State} (hb : s.busy = true) (ht : s.InText) (hns : ∀ b, strRead s.cfg b ≠ Config.sentinel)
    (hr : (s.inputAt 0).event ≠ some .reset) (hstall : s.cfg.stallPolicy = .none ∨ (s.inputAt 0).draws.stall = false) :
    ∃ t, step s = .next t ∧ GoesOn s t ∧ t.InText := by
  obtain ⟨ms, hp, hact⟩ := ht
  rcases busy_step hb hr with ⟨t, h, -, still⟩ | ⟨he, hready, h⟩
  · exact ⟨t, h, still.toGoesOn, ms, still.pending.trans hp, hact⟩
  cases hh : s.hung with
  | true =>
    rw [engineStep_hung (s := s.latch) hh] at h
    exact ⟨_, h, ⟨rfl, rfl, rfl, id, rfl⟩, ms, hp, hact⟩
  | false =>
    cases ms with
    | nil => exact ⟨_, step_nextChar ⟨he, hready, hb, hh⟩ hp (hns _), ⟨rfl, rfl, rfl, id, rfl⟩, _, rfl, txBytes_isAct _⟩
    | cons m ms =>
      obtain ⟨hm, hms⟩ := List.forall_mem_cons.mp hact
      cases m with
      | act a u =>
        rw [engineStep_act (s := s.latch) hh hp] at h
        obtain ⟨on, pending⟩ := act_goesOn (s := s.latch) (a := a) (u := u) (ms := ms ++ [.nextChar]) (by simp) hstall
        exact ⟨_, h, ⟨on.busy, on.carrier, on.cfg, on.errOor, on.completions⟩, ms, pending, hms⟩
      | scan a | nextChar | abort => cases hm

/-- Such a PUTS never ends before reset. -/
theorem text_run_goesOn : ∀ {n : Nat} {s : State}, s.busy = true → s.InText → (∀ b, strRead s.cfg b ≠ Config.sentinel) → s.NoReset n →
    (s.cfg.stallPolicy = .none ∨ ∀ k < n, (s.inputAt k).draws.stall = false) →
    ∃ t, Host.Core.run Sys2Proof.core n s = .next t ∧ GoesOn s t
  | 0, s, _, _, _, _, _ => ⟨s, run_zero s, .refl s⟩
  | n + 1, s, hb, ht, hns, hr, hstall => by
    have now := hstall.imp_right fun h => h 0 (Nat.succ_pos n)
    obtain ⟨r, hstep, hsr, hr'⟩ := text_step_goesOn hb ht hns (hr 0 (Nat.succ_pos n)) now
    have later : r.cfg.stallPolicy = .none ∨ ∀ k < n, (r.inputAt k).draws.stall = false := by
      rw [hsr.cfg]
      refine hstall.imp_right fun h k hk => ?_
      rw [step_inputAt hstep]
      exact h (k + 1) (by omega)
    obtain ⟨t, hrun, hrt⟩ := text_run_goesOn (hsr.busy.trans hb) hr' (hsr.cfg ▸ hns) (hr.step hstep) later
    exact ⟨t, (run_succ n hstep).trans hrun, hsr.trans hrt⟩

/-- The state after the acceptance of PUTS without HARDEN_GLYPH, with the line actions `ms` to open its session. -/
def State.textAccepted (s : State) (a : StrAddr) (ms : List Micro) : State :=
  { s with
    cmdr := encode (.puts a), busy := true, sptr := a, pending := ms ++ [.nextChar]
    faults := faultsAfter s s.session .puts }

/-- PUTS without HARDEN_GLYPH is accepted with the opening of its data session and its loop as the expansion. -/
theorem step_puts {s s' : State} {x : Nat} {a : StrAddr} (hA : s.Accepts x (encode (.puts a)) s') (hg : s'.cfg.hardenGlyph = false) :
    ∃ ms, step s = .next (s'.textAccepted a ms) ∧ (∀ m ∈ ms, m.isAct = true) ∧
      actionsOf ms = startActions ++ byteActions s'.cfg.addrData := by
  obtain ⟨ms, hx, hms⟩ := (putsExpands s' a).1 hg
  exact ⟨ms, hA.step_exec.trans hx, isAct_of_map_action hms, actionsOf_of_map_action hms⟩

/-- A PUTS in a ROM without a sentinel, from its acceptance on, hardened or not. -/
theorem puts_goesOn {s s' : State} {x : Nat} {a : StrAddr} (hA : s.Accepts x (encode (.puts a)) s')
    (hns : ∀ b, strRead s'.cfg b ≠ Config.sentinel) {n : Nat} (hr : s'.NoReset n)
    (hstall : s'.cfg.stallPolicy = .none ∨ ∀ k < n, (s'.inputAt k).draws.stall = false) :
    ∃ t, Host.Core.run Sys2Proof.core (1 + n) s = .next t ∧ GoesOn { s' with busy := true } t ∧
      (s'.cfg.hardenGlyph = true → t.trace = s'.trace ∧ t.lines = s'.lines) := by
  rw [Nat.add_comm 1 n]
  cases hg : s'.cfg.hardenGlyph with
  | true =>
    have hstep := hA.step_exec.trans ((putsExpands s' a).2 hg)
    obtain ⟨t, ht, still⟩ := scan_run_standsStill
      (s := { s' with cmdr := encode (.puts a), busy := true, sptr := a, pending := [.scan a] }) rfl rfl hns hr
    refine ⟨t, (run_succ n hstep).trans ht, ?_, fun _ => ⟨still.trace, still.lines⟩⟩
    exact ⟨still.busy, still.carrier, still.cfg, still.errOor, still.completions⟩
  | false =>
    obtain ⟨ms, hstep, hact, -⟩ := step_puts hA hg
    obtain ⟨t, ht, on⟩ := text_run_goesOn (s := s'.textAccepted a ms) rfl ⟨ms, rfl, hact⟩ hns hr hstall
    refine ⟨t, (run_succ n hstep).trans ht, ?_, fun h => absurd h Bool.false_ne_true⟩
    exact ⟨on.busy, on.carrier, on.cfg, on.errOor, on.completions⟩

/-! With a peripheral that answers. -/

/-- A calm stretch that is longer than a run goes on after it, where the run left what waits and the CMD writes as they were. -/
theorem State.Calm.run {s t : State} {n m : Nat} (hc : s.Calm (n + m)) (h : Host.Core.run Sys2Proof.core n s = .next t)
    (hw : t.waiting = s.waiting) (hca : t.carrier = s.carrier) (hq : t.cmdQueue = s.cmdQueue) : t.Calm m := by
  refine ⟨(State.ready_congr hw hca hq).trans hc.1, fun k hk => ?_⟩
  rw [run_inputAt h]
  exact hc.2 (n + k) (by omega)

theorem byteActionCount_le : ∀ v : Byte, byteActionCount v ≤ 35 := by decide

/-- The six bytes of a character take at most 210 line actions (40_bus_transport R107). -/
theorem charBytes_length_le (p : Params) (d : Draws) (c : Byte) : (txBytes (charPayload p d c)).length ≤ 210 := by
  have six : (charBytes p d c).length = 6 := by simp [charBytes, glyph]
  have bound := List.sum_le_card_nsmul ((charBytes p d c).map byteActionCount) 35 (by simp [byteActionCount_le])
  rw [List.length_map, six] at bound
  rw [txBytes_length, charPayload_snd]
  exact bound

/-- The glyph of a character is five bytes. -/
theorem exists_glyph_vector (p : Params) (d : Draws) (c : Byte) : ∃ g : Vector Byte 5, g.toList = glyph p d c :=
  ⟨⟨(glyph p d c).toArray, by simp [glyph]⟩, rfl⟩

/-- The state in which the loop of PUTS has taken a character, with the line actions `xs` of its bytes to be performed. -/
def State.charTaken (s : State) (xs : List Micro) : State :=
  { s.latch with sptr := s.sptr + 1, pending := xs ++ [.nextChar] }

/-- A turn of the loop of PUTS at a character, with the line actions of its six bytes. -/
theorem char_turn {s : State} {xs : List Micro} (hb : s.busy = true) (hh : s.hung = false) (hp : s.pending = [.nextChar])
    (hns : strRead s.cfg s.sptr ≠ Config.sentinel)
    (hxs : xs = txBytes (charPayload s.cfg (s.inputAt 0).draws (strRead s.cfg s.sptr))) (hc : s.Calm (1 + xs.length)) :
    ∃ t, Host.Core.run Sys2Proof.core (1 + xs.length) s = .next t ∧
      Drained (s.charTaken xs) t xs [.nextChar] := by
  have hstep : step s = .next (s.charTaken xs) := by
    rw [hxs]
    exact step_nextChar ⟨(hc.2 0 (by omega)).1, hc.1, hb, hh⟩ hp hns
  have calm : (s.charTaken xs).Calm xs.length := hc.run ((run_succ 0 hstep).trans (run_zero _)) rfl rfl rfl
  have hne : xs ≠ [] := by
    rw [hxs]
    simp [txBytes, charPayload, txByte]
  obtain ⟨t, ht, hd⟩ := drain (s := s.charTaken xs) (hxs ▸ txBytes_isAct _) hb hh rfl hne calm
  refine ⟨t, ?_, hd⟩
  rw [Nat.add_comm, run_succ _ hstep, ht]

/-- The loop of PUTS in a ROM without a sentinel sends as many characters as one waits for. -/
theorem text_emits : ∀ {m : Nat} {s : State}, s.busy = true → s.hung = false → s.pending = [.nextChar] →
    (∀ b, strRead s.cfg b ≠ Config.sentinel) → s.Calm (211 * m) →
    ∃ (gs : List (Vector Byte 5)) (steps : Nat) (t : State), gs.length = m ∧ Host.Core.run Sys2Proof.core steps s = .next t ∧
      t.busy = true ∧ t.carrier = s.carrier ∧ t.trace = s.trace ++ (gs.flatMap fun g => 0x00 :: g.toList).flatMap byteActions
  | 0, s, hb, _, _, _, _ => ⟨[], 0, s, rfl, run_zero s, hb, rfl, by simp⟩
  | m + 1, s, hb, hh, hp, hns, hc => by
    generalize hxs : txBytes (charPayload s.cfg (s.inputAt 0).draws (strRead s.cfg s.sptr)) = xs
    have hlen : xs.length ≤ 210 := hxs ▸ charBytes_length_le _ _ _
    obtain ⟨r, hr, hd⟩ := char_turn hb hh hp (hns _) hxs.symm (hc.mono (by omega))
    have calm : r.Calm (211 * m) := (hc.mono (by omega)).run hr hd.waiting hd.carrier hd.cmdQueue
    obtain ⟨gs, steps, t, hgs, ht, busy, carrier, trace⟩ := text_emits hd.busy hd.hung hd.pending (by rw [hd.cfg]; exact hns) calm
    obtain ⟨g, hg⟩ := exists_glyph_vector s.cfg (s.inputAt 0).draws (strRead s.cfg s.sptr)
    have acts : actionsOf xs = (0x00 :: g.toList).flatMap byteActions := by
      rw [← hxs, actionsOf_txBytes, charPayload_snd, charBytes, hg]
    refine ⟨g :: gs, _, t, congrArg (· + 1) hgs, (run_add steps hr).trans ht, busy, carrier.trans hd.carrier, ?_⟩
    have taken : (s.charTaken xs).trace = s.trace := rfl
    rw [trace, hd.trace, acts, taken]
    simp only [List.flatMap_cons, List.flatMap_append, List.append_assoc]

/-- A PUTS without HARDEN_GLYPH opens its data session, and then its loop begins. -/
theorem puts_opens {s s' : State} {x : Nat} {a : StrAddr} (hA : s.Accepts x (encode (.puts a)) s') (hg : s'.cfg.hardenGlyph = false)
    (hh : s'.hung = false) {n : Nat} (hc : s'.Calm (37 + n)) :
    ∃ (steps : Nat) (t : State), Host.Core.run Sys2Proof.core steps s = .next t ∧ t.busy = true ∧ t.hung = false ∧
      t.pending = [.nextChar] ∧ t.carrier = some x ∧ t.cfg = s'.cfg ∧ t.Calm n ∧
      t.trace = s'.trace ++ (startActions ++ byteActions s'.cfg.addrData) := by
  obtain ⟨ms, hstep, hact, acts⟩ := step_puts hA hg
  have length : ms.length = 2 + byteActionCount s'.cfg.addrData := by
    rw [← length_actionsOf hact, acts, List.length_append, byteActions_length]
    rfl
  have bound := byteActionCount_le s'.cfg.addrData
  have hne : ms ≠ [] := List.ne_nil_of_length_pos (by omega)
  have calm : (s'.textAccepted a ms).Calm (37 + n) := ⟨hc.1, hc.2⟩
  obtain ⟨t, ht, hd⟩ := drain (s := s'.textAccepted a ms) hact rfl hh rfl hne (calm.mono (by omega))
  refine ⟨_, t, (run_succ _ hstep).trans ht, hd.busy, hd.hung, hd.pending, hd.carrier.trans hA.carrier, hd.cfg, ?_, ?_⟩
  · exact (calm.mono (by omega)).run ht hd.waiting hd.carrier hd.cmdQueue
  · rw [hd.trace, acts]
    rfl

/-- Settles O25: by `puts_goesOn`, and by `puts_opens` and `text_emits`. -/
theorem putsWithoutSentinelNeverEnds : Obligations.PutsWithoutSentinelNeverEnds := by
  refine fun s s' x a hA hns => ⟨fun n hr hstall => ?_, fun m hg hh hc => ?_⟩
  · obtain ⟨t, ht, on, still⟩ := puts_goesOn hA hns hr hstall
    exact ⟨t, ht, on.busy, on.carrier.trans hA.carrier, on.completions, on.errOor, still⟩
  · obtain ⟨k, r, hr, busy, hung, pending, carrier, cfg, calm, trace⟩ := puts_opens hA hg hh hc
    obtain ⟨gs, steps, t, hgs, ht, busy', carrier', trace'⟩ := text_emits busy hung pending (cfg ▸ hns) calm
    refine ⟨gs, k + steps, t, hgs, (run_add steps hr).trans ht, busy', carrier'.trans carrier, ?_⟩
    rw [trace', trace]
    simp only [List.append_assoc]

end Sys2Proof.Machine
end

section
/-!
PROOF. A raw session: OPEN, WRITEs and CLOSE of one host context, each accepted when the one before it is complete (30_encoding R91,
20_memory R66, 70_reset R210; log entries 6, 28).
-/

namespace Sys2Proof.Machine

/-- A block of the configuration `p` between commands, in which the accesses `l` wait, all of the host context `x`. -/
structure State.IdleFor (s : State) (p : Params) (x : Nat) (l : List HostAccess) : Prop where
  busy : s.busy = false
  hung : s.hung = false
  carrier : s.carrier = none
  cmdQueue : s.cmdQueue = []
  waiting : s.waiting = l
  own : ∀ a ∈ l, a.ctx = x
  cfg : s.cfg = p

/-- What `n` commands of the host context `x` have made of `s`: the line actions `acts`, the lines `fin`, `n` completions and no fault; `l` waits. -/
structure Written (s t : State) (p : Params) (x : Nat) (l : List HostAccess) (acts : List LineAction) (fin : Lines) (n : Nat) : Prop where
  idle : t.IdleFor p x l
  trace : t.trace = s.trace ++ acts
  lines : t.lines = fin
  faults : t.faults = s.faults
  hostLog : t.hostLog = s.hostLog ++ List.replicate n (.commandDone x)

/-- The commands of one context leave their effects one after another. -/
theorem Written.trans {s r t : State} {p : Params} {x n n' : Nat} {l l' : List HostAccess} {acts acts' : List LineAction}
    {fin fin' : Lines} (h : Written s r p x l acts fin n) (h' : Written r t p x l' acts' fin' n') :
    Written s t p x l' (acts ++ acts') fin' (n + n') where
  idle := h'.idle
  trace := by rw [h'.trace, h.trace, List.append_assoc]
  lines := h'.lines
  faults := h'.faults.trans h.faults
  hostLog := by rw [h'.hostLog, h.hostLog, List.append_assoc, List.replicate_append_replicate]

/-- A quiet stretch that is longer than a run goes on after it. -/
theorem State.Quiet.run {s t : State} {n m : Nat} (hq : s.Quiet (n + m)) (h : Host.Core.run Sys2Proof.core n s = .next t) : t.Quiet m := by
  intro k hk
  rw [run_inputAt h]
  exact hq (n + k) (by omega)

section

variable {s : State} {p : Params} {x : Nat} {l : List HostAccess}

/-- An idle block serves the CMD write that heads the line, and accepts its word. -/
theorem State.IdleFor.accepts {w : Word} (h : s.IdleFor p x (cmdWrite p x w :: l)) (he : (s.inputAt 0).event = none) :
    s.Accepts x w ((s.latch.release (cmdWrite p x w)).carry x) := by
  have ready : s.ready = some (cmdWrite p x w) := by
    simp [State.ready, h.waiting, State.inFlight, h.carrier, h.cmdQueue]
  have write : cmdWrite s.cfg x w = cmdWrite p x w := by rw [h.cfg]
  exact ⟨h.busy, .inr ⟨_, .inr ⟨he, write ▸ ready, rfl⟩, h.cmdQueue, by rw [write]⟩⟩

/-- While it is carried out, the accesses of its context that still wait may not proceed (20_memory R66). -/
theorem State.IdleFor.carried_ready {a : HostAccess} (h : s.IdleFor p x (a :: l)) : ((s.latch.release a).carry x).ready = none := by
  have rest : s.waiting.erase a = l := by rw [h.waiting, List.erase_cons_head]
  have own : ∀ b ∈ l, b.ctx = x := (List.forall_mem_cons.mp h.own).2
  simp only [State.ready, State.carry_waiting, State.release_waiting, State.latch_waiting, rest]
  rw [List.find?_eq_none]
  intro b hb
  simp [State.inFlight, own b hb]

/-- The next command of the context runs to its end, where the session state allows it. -/
theorem write_completes {i : Instr} {ms : List Micro} (h : s.IdleFor p x (cmdWrite p x (encode i) :: l))
    (hx : ∀ r : State, r.session = s.session → exec i r = .next { r with
      cmdr := encode i, busy := true, pending := ms, faults := r.faults })
    (hact : ∀ m ∈ ms, m.isAct = true) (hne : ms ≠ []) (hq : s.Quiet (1 + ms.length)) :
    ∃ t, Host.Core.run Sys2Proof.core (1 + ms.length) s = .next t ∧ Written s t p x l (actionsOf ms) (s.lines.run ms) 1 := by
  have hA := h.accepts (hq 0 (by omega)).1
  have calm : State.Calm ((s.latch.release (cmdWrite p x (encode i))).carry x) ms.length := by
    refine ⟨h.carried_ready, fun k hk => ?_⟩
    rw [hA.inputAt]
    exact hq (k + 1) (by omega)
  obtain ⟨t, ht, hd⟩ := command_completes hA (hx _ rfl) hact hne h.hung calm
  refine ⟨t, ht, ?_, hd.trace, hd.lines, hd.faults, hd.hostLog⟩
  exact {
    busy := hd.busy, hung := hd.hung, carrier := hd.carrier, cmdQueue := hd.cmdQueue.trans h.cmdQueue
    waiting := hd.waiting.trans (by simp [h.waiting])
    own := (List.forall_mem_cons.mp h.own).2
    cfg := hd.cfg.trans h.cfg }

/-- OPEN outside a session opens one and sends its byte. -/
theorem open_completes {addr : Byte} (h : s.IdleFor p x (cmdWrite p x (encode (.openBus addr)) :: l)) (hs : s.session = false)
    (hq : s.Quiet (1 + (2 + byteActionCount addr))) :
    ∃ t, Host.Core.run Sys2Proof.core (1 + (2 + byteActionCount addr)) s = .next t ∧
      Written s t p x l (startActions ++ byteActions addr) Lines.betweenBytes 1 := by
  have acts : actionsOf (txStart ++ txByte {} addr) = startActions ++ byteActions addr := by simp
  have length : (txStart ++ txByte {} addr).length = 2 + byteActionCount addr := by
    rw [← length_actionsOf (openBus_isAct addr), acts, List.length_append, byteActions_length]
    rfl
  have lines : s.lines.run (txStart ++ txByte {} addr) = Lines.betweenBytes := by
    simp [Lines.run_append, Lines.betweenBytes]
  rw [← length, ← acts, ← lines]
  refine write_completes h (fun r hr => ?_) (openBus_isAct addr) (by simp [txStart]) (length ▸ hq)
  have kept : faultsAfter r r.session .openBus = r.faults := by simp [faultsAfter, hr, hs]
  rw [← kept]
  rfl

/-- WRITE in a session sends its byte and leaves the session open. -/
theorem byte_completes {b : Byte} (h : s.IdleFor p x (cmdWrite p x (encode (.writeByte b)) :: l)) (hs : s.lines = Lines.betweenBytes)
    (hq : s.Quiet (1 + byteActionCount b)) :
    ∃ t, Host.Core.run Sys2Proof.core (1 + byteActionCount b) s = .next t ∧
      Written s t p x l (byteActions b) Lines.betweenBytes 1 := by
  have length : (txByte {} b).length = byteActionCount b := by
    rw [← length_actionsOf (txByte_isAct _ b), actionsOf_txByte, byteActions_length]
  have lines : s.lines.run (txByte {} b) = Lines.betweenBytes := by
    rw [hs, Lines.run_txByte rfl]
    rfl
  rw [← length, ← actionsOf_txByte {} b, ← lines]
  refine write_completes h (fun r hr => ?_) (txByte_isAct _ b) (by simp [txByte]) (length ▸ hq)
  have open_session : s.session = true := congrArg Lines.session hs
  have kept : faultsAfter r (!r.session) .writeByte = r.faults := by simp [faultsAfter, hr, open_session]
  rw [← kept]
  rfl

/-- CLOSE in a session ends it. -/
theorem close_completes (h : s.IdleFor p x (cmdWrite p x (encode .closeBus) :: l)) (hs : s.lines = Lines.betweenBytes)
    (hq : s.Quiet (1 + 3)) :
    ∃ t, Host.Core.run Sys2Proof.core (1 + 3) s = .next t ∧ Written s t p x l stopActions Lines.idle 1 := by
  refine write_completes h (ms := txStop) (fun r hr => ?_) txStop_isAct (by simp [txStop]) hq
  have open_session : s.session = true := congrArg Lines.session hs
  have kept : faultsAfter r (!r.session) .closeBus = r.faults := by simp [faultsAfter, hr, open_session]
  rw [← kept]
  rfl

end

/-- The WRITEs of a session send their bytes one after another. -/
theorem bytes_complete {p : Params} {x : Nat} {l : List HostAccess} : ∀ {bs : List Byte} {s : State},
    s.IdleFor p x (cmdWrites p x ((bs.map .writeByte).map encode) ++ l) → s.lines = Lines.betweenBytes →
    s.Quiet (bs.length + (bs.map byteActionCount).sum) →
    ∃ t, Host.Core.run Sys2Proof.core (bs.length + (bs.map byteActionCount).sum) s = .next t ∧
      Written s t p x l (bs.flatMap byteActions) Lines.betweenBytes bs.length
  | [], s, h, hs, _ => ⟨s, run_zero s, h, by simp, hs, rfl, by simp⟩
  | b :: bs, s, h, hs, hq => by
    have steps : (b :: bs).length + ((b :: bs).map byteActionCount).sum =
        (1 + byteActionCount b) + (bs.length + (bs.map byteActionCount).sum) := by
      simp only [List.length_cons, List.map_cons, List.sum_cons]
      omega
    rw [steps] at hq ⊢
    obtain ⟨r, hr, first⟩ := byte_completes h hs (hq.mono (by omega))
    obtain ⟨t, ht, rest⟩ := bytes_complete first.idle first.lines (hq.run hr)
    refine ⟨t, (run_add _ hr).trans ht, ?_⟩
    rw [List.length_cons, Nat.add_comm bs.length 1]
    exact first.trans rest

/-- Settles O26: OPEN by `open_completes`, the WRITEs by `bytes_complete`, CLOSE by `close_completes`. -/
theorem rawSessionRunsAsOneSession : Obligations.RawSessionRunsAsOneSession := by
  intro s x addr bs rest hb hh hs hc hcq hw hown hq
  have steps : bs.length + 2 + sessionActionCount addr bs =
      (1 + (2 + byteActionCount addr)) + ((bs.length + (bs.map byteActionCount).sum) + (1 + 3)) := by
    unfold sessionActionCount
    omega
  have line : cmdWrites s.cfg x (sendWords addr bs) ++ rest = cmdWrite s.cfg x (encode (.openBus addr)) ::
      (cmdWrites s.cfg x ((bs.map .writeByte).map encode) ++ cmdWrite s.cfg x (encode .closeBus) :: rest) := by
    simp [sendWords, sendCommands, cmdWrites]
  rw [line] at hw
  have idle : s.IdleFor s.cfg x s.waiting := by
    refine ⟨hb, hh, hc, hcq, rfl, fun a ha => ?_, rfl⟩
    rw [hw, ← line, List.mem_append] at ha
    rcases ha with ha | ha
    · obtain ⟨w, -, rfl⟩ := List.mem_map.mp ha
      rfl
    · exact hown a ha
  rw [hw] at idle
  rw [steps] at hq ⊢
  obtain ⟨r₁, h₁, opened⟩ := open_completes idle hs (hq.mono (by omega))
  have hq₁ := hq.run h₁
  obtain ⟨r₂, h₂, sent⟩ := bytes_complete opened.idle opened.lines (hq₁.mono (by omega))
  obtain ⟨t, h₃, closed⟩ := close_completes sent.idle sent.lines (hq₁.run h₂)
  have all := (opened.trans sent).trans closed
  refine ⟨t, ((run_add _ h₁).trans (run_add _ h₂)).trans h₃, all.trace, all.lines, all.idle.busy, all.idle.waiting, all.idle.cmdQueue,
    all.faults, ?_⟩
  rw [all.hostLog, Nat.add_comm 1 bs.length]

end Sys2Proof.Machine
end

section
/-!
PROOF. Decoder and encoder are inverse to each other, and the rows of the opcode map do not overlap (30_encoding R82-R84, R88, R92).
-/

namespace Sys2Proof

/-- The words that decode are the words of commands, each of its own. -/
theorem decode_eq_ok_iff {w : Word} {i : Instr} : decode w = .ok i ↔ encode i = w :=
  ⟨encode_of_decode, fun h => h ▸ decode_encode i⟩

theorem encode_injective : Function.Injective encode := fun _ _ h =>
  Except.ok.inj ((decode_eq_ok_iff.mpr h).symm.trans (decode_encode _))

/-- Settles O2: by `decode_encode`. -/
theorem decodeInvertsEncode : Obligations.DecodeInvertsEncode := decode_encode

/-- Settles O3: by `encode_of_decode`. -/
theorem encodeInvertsDecode : Obligations.EncodeInvertsDecode := fun _ _ => encode_of_decode

/-- Settles O1: the words are computed by the encoder, and each decodes by `decode_eq_ok_iff`. -/
theorem workedEncodings : Obligations.WorkedEncodings := by
  refine ⟨fun x hx => ?_, by decide, by decide⟩
  suffices encode x.1 = x.2 from ⟨this, decode_eq_ok_iff.mpr this⟩
  revert x
  decide

/-- A row of the opcode map is known by its opcode. -/
theorem eq_of_opField_eq : ∀ r₁ ∈ opcodeMap, ∀ r₂ ∈ opcodeMap, opField r₁.pattern = opField r₂.pattern → r₁ = r₂ := by decide

/-- Settles O4: rows that hit one word both have its opcode. -/
theorem opcodeRowsDisjoint : Obligations.OpcodeRowsDisjoint := fun r₁ h₁ r₂ h₂ _ hw₁ hw₂ =>
  eq_of_opField_eq r₁ h₁ r₂ h₂ ((opField_of_hits h₁ hw₁).symm.trans (opField_of_hits h₂ hw₂))

end Sys2Proof
end

section
/-!
PROOF. The legal words are counted command by command: every command once, each by its word (30_encoding R83, R89).
-/

namespace Sys2Proof

/-- The commands of a mnemonic: one for each value of its operands. -/
def instrsOf : Mnemonic → List Instr
  | .openBus => (FinEnum.toList Byte).map .openBus
  | .writeByte => (FinEnum.toList Byte).map .writeByte
  | .closeBus => [.closeBus]
  | .init => [.init]
  | .setcur => (FinEnum.toList Byte ×ˢ FinEnum.toList Byte).map fun x => .setcur x.1 x.2
  | .putc => (FinEnum.toList Byte).map .putc
  | .puts => (FinEnum.toList StrAddr).map .puts
  | .shift => (FinEnum.toList Byte).map .shift
  | .clear => [.clear]

/-- All commands, in the order of the opcode map. -/
def allInstrs : List Instr := (opcodeMap.map (·.mnemonic)).flatMap instrsOf

@[simp] theorem length_toList_bitVec (n : Nat) : (FinEnum.toList (BitVec n)).length = 2 ^ n := by
  simp [FinEnum.toList]

theorem mem_instrsOf_mnemonic (i : Instr) : i ∈ instrsOf i.mnemonic := by
  cases i <;> simp [Instr.mnemonic, instrsOf]

theorem mnemonic_of_mem_instrsOf {m : Mnemonic} {i : Instr} (h : i ∈ instrsOf m) : i.mnemonic = m := by
  cases m with
  | closeBus | init | clear =>
    cases List.mem_singleton.mp h
    rfl
  | openBus | writeByte | setcur | putc | puts | shift =>
    obtain ⟨_, -, rfl⟩ := List.mem_map.mp h
    rfl

theorem instrsOf_nodup (m : Mnemonic) : (instrsOf m).Nodup := by
  cases m with
  | closeBus | init | clear => exact List.nodup_singleton _
  | openBus | writeByte | putc | puts | shift => exact FinEnum.nodup_toList.map fun _ _ h => by injection h
  | setcur => exact (FinEnum.nodup_toList.product FinEnum.nodup_toList).map fun _ _ h => Prod.ext_iff.mpr (Instr.setcur.inj h)

theorem mem_allInstrs (i : Instr) : i ∈ allInstrs := by
  obtain ⟨r, hr, hm, -⟩ := exists_row_hits i
  exact List.mem_flatMap.mpr ⟨_, List.mem_map_of_mem hr, hm ▸ mem_instrsOf_mnemonic i⟩

/-- No command stands twice: the rows have different mnemonics. -/
theorem allInstrs_nodup : allInstrs.Nodup := by
  have rows : (opcodeMap.map (·.mnemonic)).Nodup := by decide
  refine List.nodup_flatMap.mpr ⟨fun m _ => instrsOf_nodup m, rows.imp fun {m₁ m₂} hne i h₁ h₂ => hne ?_⟩
  exact (mnemonic_of_mem_instrsOf h₁).symm.trans (mnemonic_of_mem_instrsOf h₂)

/-- R89's count: 4 commands with one byte, 3 without operands, SETCUR with two bytes and PUTS with an address. -/
theorem allInstrs_length : allInstrs.length = 132099 := by
  rw [allInstrs, List.length_flatMap]
  simp [opcodeMap, instrsOf, List.length_product]

/-- Settles O5: the words of `allInstrs`. -/
theorem legalWordsCounted : Obligations.LegalWordsCounted := by
  refine ⟨allInstrs.map encode, allInstrs_nodup.map encode_injective, by rw [List.length_map, allInstrs_length], fun w => ?_⟩
  simp [decode_eq_ok_iff, mem_allInstrs]

end Sys2Proof
end

section
/-!
PROOF. The illegal words: those of a reserved opcode and those with a reserved-zero bit set. The step that accepts one raises
IllegalCommand and does nothing else (30_encoding R85-R88, 60_exceptions R174; log entry 5).
-/

namespace Sys2Proof

/-- A reserved-zero bit of the row is set in the word: its mask has the bit, its pattern has it 0 (30_encoding R86). -/
def OpcodeRow.ReservedBitSet (r : OpcodeRow) (w : Word) : Prop :=
  ∃ k < 28, r.mask.getLsbD k = true ∧ r.pattern.getLsbD k = false ∧ w.getLsbD k = true

/-- A row hits the words of its opcode that keep its reserved-zero bits 0. -/
theorem hits_iff {r : OpcodeRow} (hr : r ∈ opcodeMap) {w : Word} :
    r.hits w = true ↔ opField w = opField r.pattern ∧ ¬r.ReservedBitSet w := by
  have low : ∀ r ∈ opcodeMap, ∀ k < 28, r.pattern.getLsbD k = false := by decide
  have high : ∀ r ∈ opcodeMap, ∀ k < 4, r.mask.getLsbD (28 + k) = true := by decide
  refine ⟨fun hw => ⟨opField_of_hits hr hw, ?_⟩, fun ⟨hop, hbits⟩ => beq_iff_eq.mpr (BitVec.eq_of_getLsbD_eq fun k hk => ?_)⟩
  · rintro ⟨k, -, hmask, hpattern, hword⟩
    have masked : w &&& r.mask = r.pattern := beq_iff_eq.mp hw
    rw [← masked, BitVec.getLsbD_and, hword, hmask] at hpattern
    cases hpattern
  · rw [BitVec.getLsbD_and]
    by_cases hlow : k < 28
    · rw [low r hr k hlow, Bool.and_eq_false_iff]
      by_contra! hset
      exact hbits ⟨k, hlow, by simpa using hset.2, low r hr k hlow, by simpa using hset.1⟩
    · obtain ⟨j, rfl⟩ := Nat.exists_eq_add_of_le (Nat.le_of_not_lt hlow)
      have hj : j < 4 := by omega
      have bit : w.getLsbD (28 + j) = r.pattern.getLsbD (28 + j) := by
        simpa [opField, hj] using congrArg (·.getLsbD j) hop
      rw [bit, high r hr j hj, Bool.and_true]

/-- A word that no row hits is illegal. -/
theorem decode_error_of_no_hit {w : Word} (h : ∀ r ∈ opcodeMap, r.hits w = false) : ∃ e, decode w = .error e := by
  have hf : opcodeMap.find? (·.hits w) = none := List.find?_eq_none.mpr fun r hr => by simp [h r hr]
  unfold decode
  rw [hf]
  exact ⟨_, (apply_ite Except.error _ _ _).symm⟩

theorem decode_error_of_reservedOp {w : Word} (h : opField w = 0x0 ∨ 0xA ≤ opField w) : ∃ e, decode w = .error e := by
  have legal : ∀ r ∈ opcodeMap, ¬(opField r.pattern = 0x0 ∨ 0xA ≤ opField r.pattern) := by decide
  refine decode_error_of_no_hit fun r hr => Bool.eq_false_iff.mpr fun hw => ?_
  exact legal r hr (opField_of_hits hr hw ▸ h)

/-- Settles O7: only the row of the word's opcode could hit it, and by `hits_iff` that row does not. -/
theorem reservedZeroBitIsIllegal : Obligations.ReservedZeroBitIsIllegal := by
  intro r hr w hop hbit
  refine decode_error_of_no_hit fun r' hr' => Bool.eq_false_iff.mpr fun hw => ?_
  obtain ⟨hop', hclear⟩ := (hits_iff hr').mp hw
  obtain rfl : r' = r := eq_of_opField_eq r' hr' r hr (hop'.symm.trans hop)
  exact hclear hbit

namespace Machine

/-- Accepting an illegal word writes CMDR and ERR_ILL and ends the command at once (60_exceptions R171, R174). -/
theorem State.acceptIllegal_eq (s : State) (w : Word) : s.acceptIllegal w = { s with
    cmdr := w, errIll := true, pending := [], busy := false, carrier := none, hostLog := s.hostLog ++ s.completion } := by
  simp [State.acceptIllegal, State.raise, State.accept, State.completion]

/-- The step that accepts an illegal word. -/
theorem State.Accepts.step_illegal {s s' : State} {c : Nat} {w : Word} (h : s.Accepts c w s') (hw : ∃ e, decode w = .error e) :
    Machine.step s = .next (s'.acceptIllegal w) := by
  obtain ⟨e, he⟩ := hw
  rw [h.step, acceptWord, he]

/-- Settles O6: by `decode_error_of_reservedOp`, the stray write of zero by `State.Accepts.step_illegal`. -/
theorem reservedOpcodeIsIllegal : Obligations.ReservedOpcodeIsIllegal := by
  refine ⟨fun w => decode_error_of_reservedOp, fun s s' c h => ?_⟩
  refine ⟨_, h.step_illegal (decode_error_of_reservedOp (.inl (by decide))), ?_, ?_, rfl, rfl⟩
  · exact (congrArg State.trace h.eq :)
  · exact (congrArg State.lines h.eq :)

/-- Settles O9: a word that no row hits has an opcode of no row, or by `hits_iff` a reserved-zero bit; its acceptance is
`State.acceptIllegal_eq` on an idle block. -/
theorem illegalWordRaises : Obligations.IllegalWordRaises := by
  intro s s' c w h hp hno
  have no_hit : ∀ r ∈ opcodeMap, r.hits w = false := fun r hr => beq_eq_false_iff_ne.mpr (hno r hr)
  constructor
  · have opcodes : ∀ op : BitVec 4, op = 0x0 ∨ 0xA ≤ op ∨ ∃ r ∈ opcodeMap, op = opField r.pattern := by decide
    refine (opcodes (opField w)).imp_right (Or.imp_right ?_)
    rintro ⟨r, hr, hop⟩
    refine ⟨r, hr, hop, ?_⟩
    by_contra hclear
    exact Bool.false_ne_true ((no_hit r hr).symm.trans ((hits_iff hr).mpr ⟨hop, hclear⟩))
  · have busy : s'.busy = false := (congrArg State.busy h.eq).trans h.1
    have pending : s'.pending = [] := (congrArg State.pending h.eq).trans hp
    rw [h.step_illegal (decode_error_of_no_hit no_hit), State.acceptIllegal_eq]
    simp [busy, pending, State.completion, h.carrier]

end Machine

end Sys2Proof
end

section
/-!
PROOF. No run of the machine stops (30_encoding R89, 60_exceptions R172, R181; log entries 11, 23).
-/

namespace Sys2Proof.Machine

/-- Settles O46: by `step_next`, step after step. -/
theorem everyRunGoesOn : Obligations.EveryRunGoesOn := by
  intro n
  induction n with
  | zero => exact fun s => ⟨s, run_zero s⟩
  | succ n ih =>
    intro s
    obtain ⟨r, hr⟩ := step_next s
    rw [run_succ n hr]
    exact ih r

end Sys2Proof.Machine
end

section
/-!
PROOF. The assembler takes a line exactly where its operands fit, and an operand that fits stands as it is (30_encoding R90, R91).
-/

namespace Sys2Proof.Machine

@[simp] theorem isSome_byteOperand (n : Nat) : (byteOperand n).isSome = fitsByte n := by
  cases h : fitsByte n <;> simp [byteOperand, h]

@[simp] theorem isSome_addrOperand (n : Nat) : (addrOperand n).isSome = fitsAddr n := by
  cases h : fitsAddr n <;> simp [addrOperand, h]

/-- A byte is not truncated. -/
@[simp] theorem byteOperand_toNat (b : Byte) : byteOperand b.toNat = some b := by
  simp [byteOperand, fitsByte, b.isLt]

/-- The operand of HOME and UNSHIFT. -/
@[simp] theorem byteOperand_zero : byteOperand 0 = some 0 := rfl

/-- An address is not truncated. -/
@[simp] theorem addrOperand_toNat (a : StrAddr) : addrOperand a.toNat = some a := by
  simp [addrOperand, fitsAddr, a.isLt]

/-- Two operands are taken where each is. -/
@[simp] theorem isSome_bind_map {α β γ : Type} (o : Option α) (o' : Option β) (f : α → β → γ) :
    (o.bind fun a => o'.map (f a)).isSome = (o.isSome && o'.isSome) := by
  cases o <;> simp

@[simp] theorem isSome_mapM_byteOperand (bs : List Nat) : (bs.mapM byteOperand).isSome = bs.all fitsByte := by
  induction bs with
  | nil => rfl
  | cons b bs ih =>
    rw [List.all_cons, ← ih, ← isSome_byteOperand, List.mapM_cons]
    cases byteOperand b <;> cases bs.mapM byteOperand <;> rfl

@[simp] theorem mapM_byteOperand_toNat (bs : List Byte) : bs.mapM (byteOperand ∘ BitVec.toNat) = some bs := by
  have taken : byteOperand ∘ BitVec.toNat = some := funext byteOperand_toNat
  rw [taken]
  exact List.mapM_pure.trans (congrArg some bs.map_id)

theorem isSome_assemble (p : Params) (l : SourceLine) : (assemble p l).isSome = l.wellFormed := by
  cases l with
  | closeBus | init | clear | home | unshift => rfl
  | openBus n | writeByte n | putc n | shift n => exact Option.isSome_map.trans (isSome_byteOperand n)
  | puts n => exact Option.isSome_map.trans (isSome_addrOperand n)
  | setcur c g => simp [assemble, SourceLine.wellFormed]
  | cmds bs | data bs => exact Option.isSome_map.trans (isSome_mapM_byteOperand bs)
  | send a bs => simp [assemble, SourceLine.wellFormed]

/-- Settles O57: by `isSome_assemble`; operands that fit are taken as they stand by `byteOperand_toNat` and its like. -/
theorem assemblerTakesFittingLines : Obligations.AssemblerTakesFittingLines := by
  refine ⟨isSome_assemble, fun p a b x => ?_, fun p a bs => ?_⟩
  · simp [assemble]
  · simp [assemble, sendCommands]

end Sys2Proof.Machine
end

section
/-!
PROOF. Every step keeps the discipline invariant, so an idle block of a run without faults has coherent lines (40_bus_transport R110, R115,
R119; 41_display_control R125; 60_exceptions R173, R178).
-/

namespace Sys2Proof.Machine

/-- Line actions lead home where what comes after them does. -/
theorem leadsHome_append : ∀ {ms : List Micro}, (∀ m ∈ ms, m.isAct = true) → ∀ (rest : List Micro) (l : Lines),
    LeadsHome (ms ++ rest) l ↔ LeadsHome rest (l.run ms)
  | [], _, _, _ => Iff.rfl
  | .act a u :: _, h, rest, l => leadsHome_append (List.forall_mem_cons.mp h).2 rest (l.after a u)
  | .scan _ :: _, h, _, _ | .nextChar :: _, h, _, _ | .abort :: _, h, _, _ => absurd (List.forall_mem_cons.mp h).1 Bool.false_ne_true

/-- Line actions lead home where they leave coherent lines. -/
theorem leadsHome_of_coherent {ms : List Micro} (h : ∀ m ∈ ms, m.isAct = true) {l : Lines} (hl : (l.run ms).Coherent) : LeadsHome ms l := by
  rw [← List.append_nil ms, leadsHome_append h]
  exact hl

/-- Line actions before the loop of PUTS lead home, whatever they are: the loop ends with the stop sequence. -/
theorem leadsHome_text {ms : List Micro} (h : ∀ m ∈ ms, m.isAct = true) (l : Lines) : LeadsHome (ms ++ [.nextChar]) l :=
  (leadsHome_append h _ l).mpr rfl

theorem addFault_ne_nil (f : Fault) (fs : List Fault) : addFault f fs ≠ [] := by
  unfold addFault
  split_ifs with h
  · exact List.ne_nil_of_mem h
  · simp

/-- Where no fault is recorded after a check, none was before it, and its condition did not hold. -/
theorem recordIf_faults_eq_nil {s : State} {c : Bool} {f : Fault} (h : (s.recordIf c f).faults = []) : s.faults = [] ∧ c = false := by
  cases c with
  | true => exact absurd h (addFault_ne_nil f s.faults)
  | false => exact ⟨h, rfl⟩

/-- A state with the same pending and the same lines, and no fewer faults, keeps the discipline too. -/
theorem State.Disciplined.congr {s t : State} (h : s.Disciplined) (pending : t.pending = s.pending) (lines : t.lines = s.lines)
    (faults : t.faults = [] → s.faults = []) : t.Disciplined := by
  intro hf
  rw [pending, lines]
  exact h (faults hf)

/-- With nothing pending the discipline is that the lines are coherent. -/
theorem State.Disciplined.coherent {s : State} (h : s.Disciplined) (hp : s.pending = []) (hf : s.faults = []) : s.lines.Coherent := by
  have home := h hf
  rwa [hp] at home

/-! The acceptance of a command. -/

/-- A command whose expansion is line actions is accepted in the discipline where they leave coherent lines in each session state it allows. -/
theorem load_disciplined (s : State) (w : Word) (c : Bool) (f : Fault) {ms : List Micro} (hact : ∀ m ∈ ms, m.isAct = true)
    (hl : c = false → (s.lines.run ms).Coherent) : (((s.accept w).recordIf c f).load ms).Disciplined :=
  fun hf => leadsHome_of_coherent hact (hl (recordIf_faults_eq_nil hf).2)

/-- A display command that is one session, or several, leaves the lines idle (41_display_control R125). -/
theorem session_disciplined (s : State) (w : Word) (c : Bool) (f : Fault) (addr : Byte) (bs : List (Update × Byte)) :
    (((s.accept w).recordIf c f).load (session addr bs)).Disciplined :=
  load_disciplined s w c f (session_isAct addr bs) fun _ => .inl (Lines.run_session addr bs s.lines)

theorem Lines.run_clearExpansion (p : Params) (l : Lines) : l.run (clearExpansion p) = Lines.idle := by
  rw [clearExpansion, Lines.run_append]
  exact Lines.run_session _ _ _

theorem Lines.run_opening (addr : Byte) (l : Lines) : l.run (txStart ++ txByte {} addr) = Lines.betweenBytes := by
  rw [Lines.run_append, Lines.run_txStart, Lines.run_txByte rfl]
  rfl

/-- The text session of a PUTS leads home when nothing else is pending. -/
theorem beginText_disciplined {s : State} (hp : s.pending = []) (a : StrAddr) : (s.beginText a).Disciplined := by
  intro _
  rw [beginText_pending, hp, List.append_nil]
  exact leadsHome_text (openBus_isAct _) _

/-- Every command is accepted in the discipline, on lines that are coherent if no fault is recorded (60_exceptions R173). -/
theorem exec_disciplined {i : Instr} {s t : State} (hl : s.faults = [] → s.lines.Coherent) (h : exec i s = .next t) : t.Disciplined := by
  cases i with
  | openBus addr => cases h; exact load_disciplined s _ _ _ (openBus_isAct addr) fun _ => .inr (Lines.run_opening addr _)
  | writeByte b =>
    cases h
    refine load_disciplined s _ _ _ (txByte_isAct _ b) fun hs => .inr ?_
    have open_session : s.session = true := by simpa using hs
    rw [Lines.run_txByte rfl]
    exact congrArg (Lines.mk .rel .low) open_session
  | closeBus => cases h; exact load_disciplined s _ _ _ txStop_isAct fun _ => .inl rfl
  | init | setcur c p | shift o => cases h; exact session_disciplined s _ _ _ _ _
  | clear => cases h; exact load_disciplined s _ _ _ (clearExpansion_isAct _) fun _ => .inl (Lines.run_clearExpansion _ _)
  | putc c =>
    cases h
    unfold State.startPutc
    split_ifs
    · exact hl
    · exact session_disciplined s _ _ _ _ _
  | puts a =>
    cases h
    unfold State.startPuts
    split_ifs
    · exact fun hf => ⟨hl hf, rfl⟩
    · exact beginText_disciplined rfl a

/-- Every word is accepted in the discipline; an illegal one leaves nothing pending (60_exceptions R174). -/
theorem acceptWord_disciplined {w : Word} {s t : State} (hl : s.faults = [] → s.lines.Coherent) (h : acceptWord w s = .next t) :
    t.Disciplined := by
  rcases acceptWord_cases h with ⟨i, -, hx⟩ | ⟨-, -, rfl⟩
  · exact exec_disciplined hl hx
  · exact hl

/-! The engine. -/

/-- A line action takes PENDING one on, and the lines with it; before the abort SCL has been released (60_exceptions R178). -/
theorem act_disciplined {s : State} {a : LineAction} {u : Update} {ms : List Micro} (h : s.Disciplined) (hp : s.pending = .act a u :: ms) :
    ((((s.load ms).emit a).update u).settle a).Disciplined := by
  have next (hf : s.faults = []) : LeadsHome ms (s.lines.after a u) := by
    have home := h hf
    rwa [hp] at home
  rcases State.settle_cases (((s.load ms).emit a).update u) a with e | ⟨-, -, -, -, e⟩ | ⟨rfl, -, -, e⟩ <;> rw [e]
  · exact next
  · exact next
  · exact fun _ => rfl

/-- A turn of the pre-scan begins the text, goes on on the same lines, or leaves nothing pending. -/
theorem scanStep_disciplined {s : State} {a : StrAddr} {ms : List Micro} (h : s.Disciplined) (hp : s.pending = .scan a :: ms) :
    ((s.load ms).scanStep a).Disciplined := by
  have home (hf : s.faults = []) : s.lines.Coherent ∧ ms = [] := by
    have home := h hf
    rwa [hp] at home
  rcases scanStep_cases (s.load ms) a with ⟨-, e⟩ | ⟨-, -, e⟩ | ⟨-, -, -, e⟩ <;> rw [e]
  · intro hf
    exact beginText_disciplined (s := s.load ms) (home (recordIf_faults_eq_nil (s := s) hf).1).2 a hf
  · exact home
  · exact fun hf => (home hf).1

/-- A turn of the loop of PUTS puts a character's bytes before the loop, or ends it with the stop sequence. -/
theorem nextCharStep_disciplined {s : State} {ms : List Micro} (h : s.Disciplined) (hp : s.pending = .nextChar :: ms) :
    (s.load ms).nextCharStep.Disciplined := by
  have last (hf : s.faults = []) : ms = [] := by
    have home := h hf
    rwa [hp] at home
  rcases nextCharStep_cases (s.load ms) with ⟨-, e⟩ | ⟨-, e⟩ <;> rw [e] <;> intro hf <;> cases last hf
  · exact .inl rfl
  · rw [State.push_pending]
    exact (List.append_nil _).symm ▸ leadsHome_text (txBytes_isAct _) _

/-- The abort leaves the lines idle: SCL was released before it (60_exceptions R178). -/
theorem abortStep_disciplined {s : State} {ms : List Micro} (h : s.Disciplined) (hp : s.pending = .abort :: ms) :
    (s.load ms).abortStep.Disciplined := by
  intro hf
  have scl : s.sclDrv = .rel := by
    have home := h hf
    rwa [hp] at home
  refine .inl ?_
  show (⟨.rel, s.sclDrv, false⟩ : Lines) = Lines.idle
  rw [scl]
  rfl

theorem engineStep_disciplined {s : State} (h : s.Disciplined) : s.engineStep.Disciplined := by
  rcases engineStep_cases s with ⟨-, e⟩ | ⟨-, -, e⟩ | ⟨a, u, ms, -, hp, e⟩ | ⟨a, ms, -, hp, e⟩ | ⟨ms, -, hp, e⟩ | ⟨ms, -, hp, e⟩ <;> rw [e]
  · exact h
  · exact h
  · exact act_disciplined h hp
  · exact scanStep_disciplined h hp
  · exact nextCharStep_disciplined h hp
  · exact abortStep_disciplined h hp

/-! The step. -/

/-- An access other than an accepted CMD write touches neither what is pending nor the lines, and removes no fault. -/
theorem State.Serves.disciplined {s r t : State} {a : HostAccess} (h : s.Serves a r) (ht : Served r a t) (hs : s.Disciplined) :
    t.Disciplined := by
  rw [h.eq] at ht
  cases ht with
  | held _ _ | cmdRead _ | statusWrite _ _ | statusRead _ => exact hs.congr rfl rfl id
  | unmapped => exact hs.congr rfl rfl fun hf => absurd hf (addFault_ne_nil _ _)

/-- Settles O42: by the cases of a step; an idle block accepts a word on coherent lines, because nothing is pending. -/
theorem stepKeepsDiscipline : Obligations.StepKeepsDiscipline := by
  intro s t hinv hs h
  rcases step_cases s with ⟨-, e⟩ | ⟨a, -, -, e⟩ | ⟨a, r, t', hr, ht, e⟩ | ⟨c, w, s', hA, e⟩ | ⟨-, -, -, e⟩ | ⟨-, -, -, -, e⟩ <;>
    rw [e] at h
  · cases h
    exact fun _ => .inl rfl
  · cases h
    exact hs.congr rfl rfl id
  · cases h
    exact hr.disciplined ht hs
  · refine acceptWord_disciplined (fun hf => ?_) h
    rw [hA.eq] at hf ⊢
    exact hs.coherent (hinv.idle hA.1).1 hf
  · cases h
    exact engineStep_disciplined (hs.congr rfl rfl id)
  · cases h
    exact hs.congr rfl rfl id

/-- Every run keeps both invariants. -/
theorem run_keeps_invariants {n : Nat} {s t : State} (h : Host.Core.run Sys2Proof.core n s = .next t) :
    s.Inv ∧ s.Disciplined → t.Inv ∧ t.Disciplined :=
  run_induction (R := fun s t => s.Inv ∧ s.Disciplined → t.Inv ∧ t.Disciplined) (fun _ => id) (fun h h' => h' ∘ h)
    (fun {s t} h hs => ⟨stepKeepsControlInvariant s t hs.1 h, stepKeepsDiscipline s t hs.1 hs.2 h⟩) h

/-- Settles O43: by `run_keeps_invariants`; an idle block has nothing pending. -/
theorem goodStatesHaveCoherentLines : Obligations.GoodStatesHaveCoherentLines := by
  rintro n s t hinv hs h ⟨hb, hf⟩
  obtain ⟨hinv', hs'⟩ := run_keeps_invariants h ⟨hinv, hs⟩
  exact hs'.coherent (hinv'.idle hb).1 hf

end Sys2Proof.Machine
end

section
/-!
PROOF. The levels the peripheral drives change nothing (40_bus_transport R102, R108; 70_reset R217): past the taking of the input, a step of a
state with other levels is the step of the state, with those levels.
-/

namespace Sys2Proof.Machine

/-- The levels of the present input, and the inputs to come. -/
structure Levels where
  sda : Bool
  scl : Bool
  coming : List Input

/-- The levels of a state, now and to come. -/
def State.levels (s : State) : Levels := ⟨s.inp.draws.periphSda, s.inp.draws.periphScl, s.env⟩

/-- A state with other levels. -/
def State.withLevels (s : State) (v : Levels) : State :=
  { s with inp := { s.inp with draws := { s.inp.draws with periphSda := v.sda, periphScl := v.scl } }, env := v.coming }

/-- Inputs that agree when the levels are forgotten differ in them alone. -/
theorem Input.eq_of_forgetLevels {i j : Input} (h : i.forgetLevels = j.forgetLevels) :
    j = { i with draws := { i.draws with periphSda := j.draws.periphSda, periphScl := j.draws.periphScl } } :=
  (congrArg (fun x : Input => { x with draws := { x.draws with periphSda := j.draws.periphSda, periphScl := j.draws.periphScl } }) h).symm

/-- States that agree when the levels are forgotten differ in them alone. -/
theorem State.eq_withLevels {s t : State} (h : s.forgetLevels = t.forgetLevels) : t = s.withLevels t.levels := by
  have inputs : t.inp = (s.withLevels t.levels).inp := Input.eq_of_forgetLevels (congrArg State.inp h)
  calc t = { s with inp := t.inp, env := t.env } := (congrArg (fun x : State => { x with inp := t.inp, env := t.env }) h).symm
    _ = s.withLevels t.levels := congrArg (fun i => { s with inp := i, env := t.env }) inputs

/-- The second state is the first with the levels `v`. -/
def Relevelled (v : Levels) (s t : State) : Prop := t = s.withLevels v

/-- Both outcomes go on, the second from the first's state with the levels `v`. -/
def RelevelledNext (v : Levels) (o p : Host.Outcome State Fault Refusal) : Prop := ∃ s t, o = .next s ∧ p = .next t ∧ Relevelled v s t

theorem Relevelled.next {s t : State} {v : Levels} (h : Relevelled v s t) : RelevelledNext v (.next s) (.next t) := ⟨s, t, rfl, rfl, h⟩

section

variable (s : State) (v : Levels)

/-- A stall is no level. -/
theorem settle_relevelled (a : LineAction) : Relevelled v (s.settle a) ((s.withLevels v).settle a) := by
  refine ite_related (fun _ => ?_) fun _ => rfl
  show Relevelled v (match s.cfg.stallPolicy with | .none => _ | .timeout => _) (match s.cfg.stallPolicy with | .none => _ | .timeout => _)
  cases s.cfg.stallPolicy with
  | none | timeout => exact ite_related (fun _ => rfl) fun _ => rfl

theorem scanStep_relevelled (a : StrAddr) : Relevelled v (s.scanStep a) ((s.withLevels v).scanStep a) :=
  ite_related (fun _ => rfl) fun _ => ite_related (fun _ => rfl) fun _ => rfl

/-- The draws of a glyph are not levels. -/
theorem nextCharStep_relevelled : Relevelled v s.nextCharStep (s.withLevels v).nextCharStep :=
  ite_related (fun _ => rfl) fun _ => rfl

theorem perform_relevelled (m : Micro) : Relevelled v (s.perform m) ((s.withLevels v).perform m) := by
  cases m with
  | act a u => exact settle_relevelled ((s.emit a).update u) v a
  | scan a => exact scanStep_relevelled s v a
  | nextChar => exact nextCharStep_relevelled s v
  | abort => rfl

theorem engineStep_relevelled : Relevelled v s.engineStep (s.withLevels v).engineStep := by
  refine ite_related (fun _ => rfl) fun _ => ?_
  show Relevelled v (match s.pending with | [] => _ | m :: ms => _) (match s.pending with | [] => _ | m :: ms => _)
  cases s.pending with
  | nil => rfl
  | cons m ms => exact perform_relevelled (s.load ms) v m

/-- No command reads a level. -/
theorem exec_relevelled (i : Instr) : RelevelledNext v (exec i s) (exec i (s.withLevels v)) := by
  cases i with
  | openBus a | writeByte b | closeBus | init | setcur c p | shift o | clear => exact Relevelled.next rfl
  | putc c | puts a => exact Relevelled.next (ite_related (fun _ => rfl) fun _ => rfl)

theorem acceptWord_relevelled (w : Word) : RelevelledNext v (acceptWord w s) (acceptWord w (s.withLevels v)) := by
  unfold acceptWord
  cases decode w with
  | ok i => exact exec_relevelled s v i
  | error e => exact Relevelled.next rfl

/-- No access is answered a level: STATUS has the drive states (10_state R33). -/
theorem serve_relevelled (a : HostAccess) : RelevelledNext v (s.serve a) ((s.withLevels v).serve a) := by
  refine ite_related (fun _ => ite_related (fun _ => ite_related (fun _ => ?_) fun _ => ?_) fun _ => ?_) fun _ =>
    ite_related (fun _ => Relevelled.next (ite_related (fun _ => rfl) fun _ => rfl)) fun _ => ?_
  · exact acceptWord_relevelled (s.carry a.ctx) v a.data
  all_goals exact Relevelled.next rfl

theorem blockStep_relevelled : RelevelledNext v (blockStep s) (blockStep (s.withLevels v)) := by
  refine ite_related (fun _ => (engineStep_relevelled s v).next) fun _ => ?_
  show RelevelledNext v (match s.cmdQueue with | [] => _ | p :: rest => _) (match s.cmdQueue with | [] => _ | p :: rest => _)
  cases s.cmdQueue with
  | nil => exact Relevelled.next rfl
  | cons p rest => exact acceptWord_relevelled (s.takeWrite p rest) v p.word

theorem ownMove_relevelled : RelevelledNext v (ownMove s) (ownMove (s.withLevels v)) := by
  show RelevelledNext v (match s.ready with | some a => _ | none => _) (match s.ready with | some a => _ | none => _)
  cases s.ready with
  | some a => exact serve_relevelled (s.release a) v a
  | none => exact blockStep_relevelled s v

/-- The step of a state that has taken its input. -/
def State.move (s : State) : Host.Outcome State Fault Refusal :=
  match s.inp.event with
  | some .reset => .next s.resetBlock
  | some (.access a) => s.present a
  | none => ownMove s

/-- A step takes its input, and moves. -/
theorem step_eq_move : step s = s.latch.move := rfl

theorem move_relevelled : RelevelledNext v s.move (s.withLevels v).move := by
  show RelevelledNext v (match s.inp.event with | some .reset => _ | some (.access a) => _ | none => _)
    (match s.inp.event with | some .reset => _ | some (.access a) => _ | none => _)
  cases s.inp.event with
  | some e =>
    cases e with
    | reset => exact Relevelled.next rfl
    | access a => exact ite_related (fun _ => Relevelled.next rfl) fun _ => serve_relevelled s v a
  | none => exact ownMove_relevelled s v

end

/-- Past the taking of the input the inputs to come stay: with the levels it has, the state is itself. -/
theorem State.move_env {s t : State} (h : s.move = .next t) : t.env = s.env := by
  obtain ⟨t, t', ht, ht', rfl⟩ := move_relevelled s s.levels
  have fixed : t = t.withLevels s.levels := Host.Outcome.next.inj (ht.symm.trans ht')
  cases h.symm.trans ht
  exact (congrArg State.env fixed :)

/-- The input of a step, its levels forgotten, is told by the inputs with theirs forgotten. -/
theorem State.inputAt_forgetLevels (s : State) (k : Nat) : (s.forgetLevels.inputAt k).forgetLevels = (s.inputAt k).forgetLevels := by
  unfold State.inputAt
  rw [show s.forgetLevels.env[k]? = s.env[k]?.map Input.forgetLevels from List.getElem?_map]
  cases s.env[k]? <;> rfl

/-- Taking the input and forgetting the levels commute. -/
theorem State.latch_forgetLevels (s : State) : s.forgetLevels.latch.forgetLevels = s.latch.forgetLevels := by
  have input := s.inputAt_forgetLevels 0
  have coming : (s.env.map Input.forgetLevels).tail.map Input.forgetLevels = s.env.tail.map Input.forgetLevels := by
    rw [← List.map_tail, List.map_map]
    rfl
  show { s.latch with inp := (s.forgetLevels.inputAt 0).forgetLevels, env := (s.env.map Input.forgetLevels).tail.map Input.forgetLevels } = _
  rw [input, coming]
  rfl

/-- A step keeps states that differ in the levels alone so. -/
theorem step_forgetLevels {s₁ s₂ t₁ t₂ : State} (h : s₁.forgetLevels = s₂.forgetLevels) (h₁ : step s₁ = .next t₁)
    (h₂ : step s₂ = .next t₂) : t₁.forgetLevels = t₂.forgetLevels := by
  rw [step_eq_move] at h₁ h₂
  have latched : s₁.latch.forgetLevels = s₂.latch.forgetLevels := by
    rw [← s₁.latch_forgetLevels, h, s₂.latch_forgetLevels]
  have apart := move_relevelled s₁.latch s₂.latch.levels
  rw [← State.eq_withLevels latched] at apart
  obtain ⟨t, t', ht₁, ht₂, rfl⟩ := apart
  cases h₁.symm.trans ht₁
  cases h₂.symm.trans ht₂
  have coming : t₁.env.map Input.forgetLevels = s₂.latch.env.map Input.forgetLevels := by
    rw [State.move_env h₁]
    exact congrArg State.env latched
  exact congrArg (fun env => { t₁.forgetLevels with env := env }) coming

theorem run_forgetLevels : ∀ {n : Nat} {s₁ s₂ t₁ t₂ : State}, s₁.forgetLevels = s₂.forgetLevels →
    Host.Core.run Sys2Proof.core n s₁ = .next t₁ → Host.Core.run Sys2Proof.core n s₂ = .next t₂ → t₁.forgetLevels = t₂.forgetLevels
  | 0, _, _, _, _, h, h₁, h₂ => by
    cases h₁
    cases h₂
    exact h
  | n + 1, s₁, s₂, _, _, h, h₁, h₂ => by
    obtain ⟨r₁, e₁⟩ := step_next s₁
    obtain ⟨r₂, e₂⟩ := step_next s₂
    rw [run_succ n e₁] at h₁
    rw [run_succ n e₂] at h₂
    exact run_forgetLevels (step_forgetLevels h e₁ e₂) h₁ h₂

/-- Settles O49: by `run_forgetLevels`; what is observed does not read the levels. -/
theorem peripheralLevelsAreIgnored : Obligations.PeripheralLevelsAreIgnored := by
  intro n s₁ s₂ t₁ t₂ h h₁ h₂
  have ht := run_forgetLevels h h₁ h₂
  exact ⟨(congrArg State.trace ht :), (congrArg State.status ht :), (congrArg State.hostLog ht :), ht⟩

end Sys2Proof.Machine
end

section
/-!
PROOF. OPEN, WRITE and CLOSE run to their end, and a line action is one step (40_bus_transport R101, R104-R107, R110, R112, R114).
-/

namespace Sys2Proof.Machine

/-- The micro-steps of a byte (40_bus_transport R107). -/
theorem txByte_length (u : Update) (v : Byte) : (txByte u v).length = 27 + popcount v := by
  rw [← length_actionsOf (txByte_isAct u v), actionsOf_txByte, byteActions_length]
  rfl

/-- The micro-steps of a start condition and a byte (40_bus_transport R107). -/
theorem opening_length (addr : Byte) : (txStart ++ txByte {} addr).length = 29 + popcount addr := by
  have start : txStart.length = 2 := rfl
  rw [List.length_append, txByte_length, start]
  omega

/-- Settles O14: by `command_completes`, with the length and the end of the opening. -/
theorem openRunsToItsEnd : Obligations.OpenRunsToItsEnd := by
  intro s s' c addr hA hh hc
  have acts : actionsOf (txStart ++ txByte {} addr) = startActions ++ byteActions addr := by simp
  rw [← opening_length] at hc ⊢
  rw [← acts, ← Lines.run_opening addr s'.lines]
  exact command_completes hA rfl (openBus_isAct addr) (by simp [txStart]) hh hc

/-- Settles O15: by `command_completes`, with the length and the end of a byte. -/
theorem writeRunsToItsEnd : Obligations.WriteRunsToItsEnd := by
  intro s s' c b hA hh hc
  have lines : s'.lines.run (txByte {} b) = ⟨.rel, .low, s'.session⟩ := Lines.run_txByte rfl b s'.lines
  rw [← txByte_length {} b] at hc ⊢
  rw [← actionsOf_txByte {} b, ← lines]
  exact command_completes hA rfl (txByte_isAct _ b) (by simp [txByte]) hh hc

/-- Settles O16: by `command_completes`. -/
theorem closeRunsToItsEnd : Obligations.CloseRunsToItsEnd := by
  intro s s' c hA hh hc
  exact command_completes (ms := txStop) hA rfl txStop_isAct (by simp [txStop]) hh hc

/-- A stall changes neither the trace nor the lines. -/
theorem settle_trace_lines (s : State) (a : LineAction) : (s.settle a).trace = s.trace ∧ (s.settle a).lines = s.lines := by
  rcases State.settle_cases s a with h | ⟨-, -, -, -, h⟩ | ⟨-, -, -, h⟩ <;> rw [h] <;> exact ⟨rfl, rfl⟩

/-- A line action is one step: it appends itself to the trace, and the lines are what it makes of them. -/
theorem step_act {s : State} {a : LineAction} {u : Update} {ms : List Micro} (h : s.EngineMoves) (hp : s.pending = .act a u :: ms) :
    ∃ t, step s = .next t ∧ t.trace = s.trace ++ [a] ∧ t.lines = s.lines.after a u :=
  ⟨_, step_perform h hp, settle_trace_lines (((s.latch.load ms).emit a).update u) a⟩

/-- Settles O27: by `step_act`, action by action; the STATUS bits are the drive states. -/
theorem lineActionIsOneStep : Obligations.LineActionIsOneStep := by
  intro s a u ms h hp
  obtain ⟨t, hstep, trace, lines⟩ := step_act h hp
  obtain ⟨-, -, -, -, -, sdaBit, sclBit, -⟩ := statusFields.1 t
  have sda : t.sdaDrv = (s.lines.after a u).sda := congrArg Lines.sda lines
  have scl : t.sclDrv = (s.lines.after a u).scl := congrArg Lines.scl lines
  refine ⟨t, hstep, trace, sdaBit, sclBit, ?_⟩
  rw [sda, scl]
  refine ⟨?_, ?_, ?_, ?_⟩
  all_goals
    rintro rfl
    exact ⟨rfl, rfl⟩

end Sys2Proof.Machine
end

section
/-!
PROOF. The action counts of the sequences, of a session and of CLEAR (40_bus_transport R107, 43_display_maintenance R165, R222).
-/

namespace Sys2Proof.Machine

theorem popcount_le (v : Byte) : popcount v ≤ 8 := by
  have h := List.countP_le_length (l := List.range 8) (p := fun k => v.getLsbD k)
  rwa [List.length_range] at h

/-- The actions of a session, counted by its bytes (40_bus_transport R107). -/
theorem sessionActions_length (addr : Byte) (bs : List Byte) : (sessionActions addr bs).length = sessionActionCount addr bs := by
  have h := session_length addr (plainBytes bs)
  rwa [← length_actionsOf (session_isAct addr _), actionsOf_session, plainBytes_snd] at h

/-- A session of zero bytes takes 27 actions for each (43_display_maintenance R165). -/
theorem sessionActions_zeros_length (addr : Byte) (n : Nat) :
    (sessionActions addr (List.replicate n 0x00)).length = 2 + (27 + popcount addr) + 27 * n + 3 := by
  have zero : byteActionCount 0x00 = 27 := rfl
  rw [sessionActions_length, sessionActionCount, List.map_replicate, List.sum_replicate, zero, smul_eq_mul, Nat.mul_comm n 27]
  rfl

/-- Settles O54: by the lengths of a byte's and of a session's actions. -/
theorem actionCounts : Obligations.ActionCounts := by
  refine ⟨rfl, rfl, fun v => ⟨byteActions_length v, ?_⟩, byteActions_length 0x00, byteActions_length 0xFF, sessionActions_length,
    fun p => ?_, fun p => ⟨fun h => ?_, fun h => ?_, sessionActions_zeros_length p.addrData p.clearCount⟩⟩
  · have := popcount_le v
    omega
  · have zeros := sessionActions_zeros_length p.addrData p.clearCount
    rw [Params.clearCount, Config.panelWidth] at zeros ⊢
    rw [clearActions, List.length_append, List.length_append, zeros]
    omega
  · rw [Params.clearCount, h]
    rfl
  · rw [Params.clearCount, h]
    rfl

end Sys2Proof.Machine
end

section
/-!
PROOF. A byte makes no start or stop condition: from SCL low, it moves SDA while SCL is low alone (40_bus_transport R117 (b)).
-/

namespace Sys2Proof.Machine

/-- From SCL low the actions end with SCL low, and every SDA action among them happens while SCL is low. -/
structure NoConditions (as : List LineAction) : Prop where
  ends : ∀ r : Receiver, r.scl = .low → (as.foldl Receiver.on r).scl = .low
  inside : ∀ (before after : List LineAction) (a : LineAction) (r : Receiver), as = before ++ a :: after → a = .sdaLow ∨ a = .sdaRel →
    r.scl = .low → (before.foldl Receiver.on r).scl = .low

theorem NoConditions.nil : NoConditions [] where
  ends _ h := h
  inside _ _ _ _ h := by simp at h

/-- One piece after another. -/
theorem NoConditions.append {as bs : List LineAction} (h : NoConditions as) (h' : NoConditions bs) : NoConditions (as ++ bs) where
  ends r hr := by
    rw [List.foldl_append]
    exact h'.ends _ (h.ends r hr)
  inside before after a r heq ha hr := by
    rcases List.append_eq_append_iff.mp heq with ⟨xs, rfl, hb⟩ | ⟨xs, rfl, hb⟩
    · rw [List.foldl_append]
      exact h'.inside xs after a _ hb ha (h.ends r hr)
    · cases xs with
      | nil => simpa using h.ends r hr
      | cons x xs =>
        obtain ⟨rfl, -⟩ := List.cons.inj hb
        exact h.inside before xs a r rfl ha hr

theorem NoConditions.flatMap {α : Type} {f : α → List LineAction} (h : ∀ x, NoConditions (f x)) : ∀ xs : List α, NoConditions (xs.flatMap f)
  | [] => .nil
  | x :: xs => (h x).append (NoConditions.flatMap h xs)

/-- An SDA action does not move SCL. -/
theorem Receiver.on_sda_scl (r : Receiver) {a : LineAction} (ha : a = .sdaLow ∨ a = .sdaRel) : (r.on a).scl = r.scl := by
  rcases ha with rfl | rfl
  · simp only [Receiver.on, Receiver.onSdaLow]
    split_ifs <;> rfl
  · simp only [Receiver.on, Receiver.onSdaRel]
    split_ifs <;> rfl

theorem NoConditions.sda {a : LineAction} (ha : a = .sdaLow ∨ a = .sdaRel) : NoConditions [a] where
  ends r hr := (r.on_sda_scl ha).trans hr
  inside before after b r heq _ hr := by
    rcases List.singleton_eq_append_iff.mp heq with ⟨rfl, -⟩ | ⟨-, h⟩
    · exact hr
    · cases h

/-- A clock pulse from SCL low ends with SCL low. -/
theorem NoConditions.clock : NoConditions [.sclRel, .sclLow] where
  ends r hr := by simp [Receiver.on, Receiver.onSclRel, Receiver.onSclLow, hr]
  inside before after a r heq ha _ := by
    have hm : a ∈ [LineAction.sclRel, .sclLow] := heq ▸ List.mem_append_right before List.mem_cons_self
    rcases ha with rfl | rfl <;> simp at hm

theorem NoConditions.bit (v : Byte) (k : Nat) : NoConditions (bitActions v k) := by
  refine ((NoConditions.sda (.inl rfl)).append ?_).append .clock
  split_ifs
  · exact .sda (.inr rfl)
  · exact .nil

theorem NoConditions.byte (v : Byte) : NoConditions (byteActions v) :=
  (NoConditions.flatMap (NoConditions.bit v) _).append ((NoConditions.sda (.inr rfl)).append .clock)

/-- Settles O53: by `NoConditions.byte`, of the pieces of a byte. -/
theorem bytesMakeNoConditions : Obligations.BytesMakeNoConditions :=
  fun v before after a r => (NoConditions.byte v).inside before after a r

end Sys2Proof.Machine
end

section
/-!
PROOF. The trace of sessions decodes to a well-formed frame for each (40_bus_transport R117, R118; 42_text_output R146).
-/

namespace Sys2Proof.Machine

/-- The nine bits a receiver samples of a byte: the data bits, most significant first, and the released line of the acknowledgement. -/
def byteBits (v : Byte) : List Bool := (List.range 8).map (fun k => v.getLsbD (7 - k)) ++ [true]

/-- The data bits of a byte are the byte. -/
theorem byteOfBits_dataBits : ∀ v : Byte, byteOfBits ((List.range 8).map fun k => v.getLsbD (7 - k)) = v := by decide

theorem bytesOfBits_byteBits (v : Byte) (rest : List Bool) : bytesOfBits (byteBits v ++ rest) = (bytesOfBits rest).map (v :: ·) :=
  congrArg (fun b => (bytesOfBits rest).map (b :: ·)) (byteOfBits_dataBits v)

/-- The bits of whole bytes are read as those bytes. -/
theorem bytesOfBits_flatMap_byteBits : ∀ bs : List Byte, bytesOfBits (bs.flatMap byteBits) = some bs
  | [] => rfl
  | b :: bs => by rw [List.flatMap_cons, bytesOfBits_byteBits, bytesOfBits_flatMap_byteBits bs, Option.map_some]

/-- The replay inside a frame between clock pulses: SCL is low, these are the frame's bits, and these frames are closed. -/
structure Receiver.InFrame (r : Receiver) (bits : List Bool) (closed : List RawFrame) : Prop where
  scl : r.scl = .low
  cur : r.cur = some bits
  closed : r.closed = closed

/-- The replay with both lines released and no frame open. -/
def Receiver.between (closed : List RawFrame) : Receiver := ⟨.rel, .rel, none, none, closed⟩

section

variable {r : Receiver} {bits : List Bool} {closed : List RawFrame}

/-- A clock pulse inside a frame appends the level of SDA to its bits. -/
theorem Receiver.InFrame.clock (h : r.InFrame bits closed) :
    ([.sclRel, .sclLow].foldl Receiver.on r).InFrame (bits ++ [r.sda == .rel]) closed := by
  obtain ⟨sda, scl, sampled, cur, cl⟩ := r
  obtain ⟨rfl, rfl, rfl⟩ := h
  exact ⟨rfl, rfl, rfl⟩

/-- While SCL is low an SDA action moves SDA alone. -/
theorem Receiver.InFrame.sdaLow (h : r.InFrame bits closed) : r.on .sdaLow = { r with sda := .low } := by
  simp [Receiver.on, Receiver.onSdaLow, h.scl]

theorem Receiver.InFrame.sdaRel (h : r.InFrame bits closed) : r.on .sdaRel = { r with sda := .rel } := by
  simp [Receiver.on, Receiver.onSdaRel, h.scl]

theorem Receiver.InFrame.withSda (h : r.InFrame bits closed) (d : Drive) : ({ r with sda := d } : Receiver).InFrame bits closed :=
  ⟨h.scl, h.cur, h.closed⟩

/-- The actions of a data bit append it to the frame's bits (40_bus_transport R105). -/
theorem Receiver.InFrame.bit (h : r.InFrame bits closed) (v : Byte) (k : Nat) :
    ((bitActions v k).foldl Receiver.on r).InFrame (bits ++ [v.getLsbD (7 - k)]) closed := by
  have low := h.withSda .low
  rw [bitActions]
  cases v.getLsbD (7 - k) with
  | false =>
    show ([.sclRel, .sclLow].foldl Receiver.on (r.on .sdaLow)).InFrame _ _
    rw [h.sdaLow]
    exact low.clock
  | true =>
    show ([.sclRel, .sclLow].foldl Receiver.on ((r.on .sdaLow).on .sdaRel)).InFrame _ _
    rw [h.sdaLow, low.sdaRel]
    exact (h.withSda .rel).clock

theorem Receiver.InFrame.dataBits (v : Byte) : ∀ {ks : List Nat} {r : Receiver} {bits : List Bool}, r.InFrame bits closed →
    ((ks.flatMap (bitActions v)).foldl Receiver.on r).InFrame (bits ++ ks.map fun k => v.getLsbD (7 - k)) closed
  | [], _, bits, h => (List.append_nil bits).symm ▸ h
  | k :: ks, _, bits, h => by
    rw [List.flatMap_cons, List.foldl_append, List.map_cons, List.append_cons]
    exact Receiver.InFrame.dataBits v (h.bit v k)

theorem Receiver.InFrame.byte (h : r.InFrame bits closed) (v : Byte) :
    ((byteActions v).foldl Receiver.on r).InFrame (bits ++ byteBits v) closed := by
  have data := Receiver.InFrame.dataBits v (ks := List.range 8) h
  rw [byteActions, List.foldl_append, List.foldl_cons, data.sdaRel, byteBits, ← List.append_assoc]
  exact (data.withSda .rel).clock

theorem Receiver.InFrame.bytes : ∀ {bs : List Byte} {r : Receiver} {bits : List Bool}, r.InFrame bits closed →
    ((bs.flatMap byteActions).foldl Receiver.on r).InFrame (bits ++ bs.flatMap byteBits) closed
  | [], _, bits, h => (List.append_nil bits).symm ▸ h
  | b :: bs, _, bits, h => by
    rw [List.flatMap_cons, List.foldl_append, List.flatMap_cons, ← List.append_assoc]
    exact Receiver.InFrame.bytes (h.byte b)

/-- The stop sequence ends the frame, terminated; its sampled bit is no clock pulse. -/
theorem Receiver.InFrame.stop (h : r.InFrame bits closed) :
    stopActions.foldl Receiver.on r = .between (closed ++ [⟨bits, true⟩]) := by
  rw [stopActions, List.foldl_cons, h.sdaLow]
  obtain ⟨sda, scl, sampled, cur, cl⟩ := r
  obtain ⟨rfl, rfl, rfl⟩ := h
  rfl

end

/-- The start condition from released lines opens a frame. -/
theorem Receiver.between_start (closed : List RawFrame) : (startActions.foldl Receiver.on (.between closed)).InFrame [] closed :=
  ⟨rfl, rfl, rfl⟩

/-- A session from released lines is one terminated frame, of its bytes' bits. -/
theorem Receiver.between_session (closed : List RawFrame) (addr : Byte) (bs : List Byte) :
    (sessionActions addr bs).foldl Receiver.on (.between closed) = .between (closed ++ [⟨(addr :: bs).flatMap byteBits, true⟩]) := by
  rw [sessionActions, List.foldl_append, List.foldl_append, List.foldl_append]
  exact (((Receiver.between_start closed).byte addr).bytes).stop

/-- Sessions from released lines are a terminated frame each. -/
theorem Receiver.between_sessions : ∀ (l : List (Byte × List Byte)) (closed : List RawFrame),
    (l.flatMap fun x => sessionActions x.1 x.2).foldl Receiver.on (.between closed) =
      .between (closed ++ l.map fun x => ⟨(x.1 :: x.2).flatMap byteBits, true⟩)
  | [], closed => by rw [List.map_nil, List.append_nil]; rfl
  | x :: l, closed => by
    rw [List.flatMap_cons, List.foldl_append, Receiver.between_session, Receiver.between_sessions l, List.map_cons, ← List.append_cons]

/-- A terminated frame of whole bytes is read as well-formed. -/
theorem RawFrame.read_bytes (addr : Byte) (bs : List Byte) :
    RawFrame.read ⟨(addr :: bs).flatMap byteBits, true⟩ = .wellFormed addr bs := by
  rw [RawFrame.read, if_pos rfl, bytesOfBits_flatMap_byteBits]

/-- Settles O52: by `Receiver.between_sessions`, frame by frame by `RawFrame.read_bytes`. -/
theorem sessionsDecodeToTheirFrames : Obligations.SessionsDecodeToTheirFrames := by
  intro l
  have replay : (l.flatMap fun x => sessionActions x.1 x.2).foldl Receiver.on Receiver.start = _ := Receiver.between_sessions l []
  rw [decodeFrames, replay]
  show (l.map fun x => (⟨(x.1 :: x.2).flatMap byteBits, true⟩ : RawFrame)).map RawFrame.read = _
  rw [List.map_map]
  exact List.map_congr_left fun x _ => RawFrame.read_bytes x.1 x.2

end Sys2Proof.Machine
end

section
/-!
PROOF. INIT and SETCUR run to their end, each in one command-mode session (41_display_control R125, R126, R129-R132).
-/

namespace Sys2Proof.Machine

/-- INIT is accepted with its session as its expansion (41_display_control R126). -/
theorem exec_init (s : State) :
    exec .init s = .next { s with
      cmdr := encode .init, busy := true, pending := session s.cfg.addrCmd (indexedBytes 0 s.cfg.initSeq)
      faults := faultsAfter s s.session .init } := rfl

/-- SETCUR is accepted with its session as its expansion (41_display_control R131). -/
theorem exec_setcur (s : State) (c p : Byte) :
    exec (.setcur c p) s = .next { s with
      cmdr := encode (.setcur c p), busy := true, pending := session s.cfg.addrCmd (plainBytes (cursorBytes s.cfg c p))
      faults := faultsAfter s s.session .setcur } := rfl

/-- The bytes that SETCUR sends are R129's formulas of its operands (41_display_control R129, R131). -/
theorem plainBytes_cursorBytes_snd (p : Params) (c page : Byte) :
    (plainBytes (cursorBytes p c page)).map Prod.snd = setcurPayload p c page :=
  (plainBytes_snd _).trans (cursorBytes_eq p c page)

/-- Settles O17: by `session_command_completes`; the loop over INIT_SEQ sends its bytes in order. -/
theorem initRunsToItsEnd : Obligations.InitRunsToItsEnd := by
  intro s s' c hA hh hc
  exact session_command_completes hA (exec_init s') (indexedBytes_snd 0 s'.cfg.initSeq) hh hc

/-- Settles O18: by `session_command_completes`, with the three bytes of the cursor. -/
theorem setcurRunsToItsEnd : Obligations.SetcurRunsToItsEnd := by
  intro s s' x c p hA hh hc
  exact session_command_completes hA (exec_setcur s' c p) (plainBytes_cursorBytes_snd s'.cfg c p) hh hc

end Sys2Proof.Machine
end

section
/-!
PROOF. A hardened PUTS scans its string first: it passes over the characters in range, and raises OutOfRangeCharacter at another (42_text_output
R150, R151; 60_exceptions R175, R180; log entries 7, 30).
-/

namespace Sys2Proof.Machine

/-- With a calm step to come, a command in progress in an engine that is not hung moves. -/
theorem State.Calm.engineMoves {s : State} {n : Nat} (hc : s.Calm (n + 1)) (hb : s.busy = true) (hh : s.hung = false) : s.EngineMoves :=
  ⟨(hc.2 0 (Nat.succ_pos n)).1, hc.1, hb, hh⟩

/-- A calm stretch goes on after a step that leaves what waits and the CMD writes as they were. -/
theorem State.Calm.step {s t : State} {n : Nat} (hc : s.Calm (n + 1)) (h : Machine.step s = .next t) (hw : t.waiting = s.waiting)
    (hca : t.carrier = s.carrier) (hq : t.cmdQueue = s.cmdQueue) : t.Calm n :=
  ⟨(State.ready_congr hw hca hq).trans hc.1, hc.2.shift (step_inputAt h)⟩

/-- A run of one step. -/
theorem run_one {s t : State} (h : step s = .next t) : Host.Core.run Sys2Proof.core 1 s = .next t :=
  (run_succ 0 h).trans (run_zero t)

/-- String addresses go on modulo 65536 (20_memory R61). -/
theorem add_one_add_ofNat (a : StrAddr) (n : Nat) : a + 1 + BitVec.ofNat 16 n = a + BitVec.ofNat 16 (n + 1) := by
  rw [Nat.add_comm n 1, BitVec.ofNat_add, BitVec.add_assoc]
  rfl

/-- The address after a string's characters holds the sentinel (42_text_output R149). -/
theorem strRead_end_of_isString {p : Params} : ∀ {n : Nat} {a : StrAddr}, isString p a n = true →
    strRead p (a + BitVec.ofNat 16 n) = Config.sentinel
  | 0, a, h => by simpa [isString] using h
  | n + 1, a, h => by
    rw [← add_one_add_ofNat]
    exact strRead_end_of_isString (Bool.and_eq_true_iff.mp h).2

theorem ne_sentinel_of_inRange {p : Params} {c : Byte} (h : inRange p c = true) : c ≠ Config.sentinel := by
  rintro rfl
  exact absurd h (by simp [inRange_sentinel])

/-- The pre-scan passes over a character in range, which writes SPTR alone. -/
theorem step_scan_of_inRange {s : State} {a : StrAddr} {ms : List Micro} (h : s.EngineMoves) (hp : s.pending = .scan a :: ms)
    (hin : inRange s.cfg (strRead s.cfg s.sptr) = true) : step s = .next { s.latch with sptr := s.sptr + 1 } := by
  rw [step_perform h hp, State.perform]
  rcases scanStep_cases (s.latch.load ms) a with ⟨he, -⟩ | ⟨-, -, passed⟩ | ⟨-, hout, -⟩
  · exact absurd he (ne_sentinel_of_inRange hin)
  · rw [passed]
    exact congrArg (fun l => Host.Outcome.next { s.latch with sptr := s.sptr + 1, pending := l }) hp.symm
  · exact absurd (hin.symm.trans hout) (by decide)

/-- In a ROM with a sentinel the pre-scan raises at a character out of range. -/
theorem step_scan_of_not_inRange {s : State} {a : StrAddr} {ms : List Micro} (h : s.EngineMoves) (hp : s.pending = .scan a :: ms)
    (hne : strRead s.cfg s.sptr ≠ Config.sentinel) (hout : inRange s.cfg (strRead s.cfg s.sptr) = false)
    (hsent : ∃ b, strRead s.cfg b = Config.sentinel) : step s = .next ((s.latch.load ms).raise .outOfRangeCharacter) := by
  rw [step_perform h hp, State.perform]
  rcases scanStep_cases (s.latch.load ms) a with ⟨he, -⟩ | ⟨-, hin | hnone, -⟩ | ⟨-, -, -, raised⟩
  · exact absurd he hne
  · exact absurd (hout.symm.trans hin) (by decide)
  · exact absurd (((hasSentinel_iff s.cfg).mpr hsent).symm.trans hnone) (by decide)
  · rw [raised]

/-- At the sentinel the pre-scan ends, and the data session of the string begins. -/
theorem step_scan_of_sentinel {s : State} {a : StrAddr} (h : s.EngineMoves) (hp : s.pending = [.scan a])
    (he : strRead s.cfg s.sptr = Config.sentinel) :
    step s = .next { s.latch with
      sptr := a, pending := txStart ++ txByte {} s.cfg.addrData ++ [.nextChar], faults := faultsAfter s s.session .puts } := by
  rw [step_perform h hp, State.perform]
  rcases scanStep_cases (s.latch.load []) a with ⟨-, begun⟩ | ⟨hne, -⟩ | ⟨hne, -⟩
  · have pending : ((s.latch.load []).beginText a).pending = txStart ++ txByte {} s.cfg.addrData ++ [.nextChar] := List.append_nil _
    rw [begun, ← pending]
    rfl
  · exact absurd he hne
  · exact absurd he hne

/-- The state `s` with SPTR gone on to `b`, when the inputs are those that `r` has come to. -/
def State.scannedTo (s : State) (b : StrAddr) (r : State) : State :=
  { s with sptr := b, inp := r.inp, env := r.env, tick := r.tick }

/-- The pre-scan passes over `n` characters in range, one a step. -/
theorem scan_passes {a : StrAddr} : ∀ {n : Nat} {s : State}, s.busy = true → s.hung = false → s.pending = [.scan a] →
    (∀ c ∈ strChars s.cfg s.sptr n, inRange s.cfg c = true) → s.Calm n →
    ∃ r, Host.Core.run Sys2Proof.core n s = .next (s.scannedTo (s.sptr + BitVec.ofNat 16 n) r)
  | 0, s, _, _, _, _, _ => by
    have here : s.sptr + BitVec.ofNat 16 0 = s.sptr := by simp
    exact ⟨s, by rw [here]; exact run_zero s⟩
  | n + 1, s, hb, hh, hp, hin, hc => by
    obtain ⟨hin0, hins⟩ := List.forall_mem_cons.mp hin
    have hstep := step_scan_of_inRange (hc.engineMoves hb hh) hp hin0
    obtain ⟨r, hr⟩ := scan_passes (s := { s.latch with sptr := s.sptr + 1 }) hb hh hp hins (hc.step hstep rfl rfl rfl)
    refine ⟨r, (run_succ n hstep).trans (hr.trans ?_)⟩
    rw [← add_one_add_ofNat]
    rfl

/-- The state after the acceptance of a hardened PUTS. -/
def State.scanAccepted (s : State) (a : StrAddr) : State :=
  { s with cmdr := encode (.puts a), busy := true, sptr := a, pending := [.scan a] }

/-- A hardened PUTS is accepted and passes over the first `n` characters of its string, if they are in range. -/
theorem puts_scans {s s' : State} {x : Nat} {a : StrAddr} (hA : s.Accepts x (encode (.puts a)) s') (hh : s'.hung = false)
    (hg : s'.cfg.hardenGlyph = true) {n m : Nat} (hin : ∀ c ∈ strChars s'.cfg a n, inRange s'.cfg c = true) (hc : s'.Calm (n + m)) :
    ∃ r, Host.Core.run Sys2Proof.core (1 + n) s = .next ((s'.scanAccepted a).scannedTo (a + BitVec.ofNat 16 n) r) ∧
      ((s'.scanAccepted a).scannedTo (a + BitVec.ofNat 16 n) r).Calm m := by
  have hstep : step s = .next (s'.scanAccepted a) := hA.step_exec.trans ((putsExpands s' a).2 hg)
  have calm : (s'.scanAccepted a).Calm (n + m) := ⟨hc.1, hc.2⟩
  obtain ⟨r, hr⟩ := scan_passes (s := s'.scanAccepted a) rfl hh rfl hin (calm.mono (by omega))
  refine ⟨r, ?_, calm.run hr rfl rfl rfl⟩
  rw [Nat.add_comm, run_succ n hstep]
  exact hr

/-- Settles O24: by `puts_scans`, and by `step_scan_of_not_inRange` at the character out of range. -/
theorem hardenedPutsRejectsString : Obligations.HardenedPutsRejectsString := by
  intro s s' x a n hA hh hg hin hne hout hsent hc
  obtain ⟨r, hrun, calm⟩ := puts_scans (m := 1) hA hh hg hin hc
  have raises := step_scan_of_not_inRange (calm.engineMoves (n := 0) rfl hh) rfl hne hout hsent
  have completes : s'.completion = [.commandDone x] := by simp [State.completion, hA.carrier]
  exact ⟨_, (run_add 1 hrun).trans (run_one raises), Bool.or_true _, rfl, rfl, rfl, rfl, rfl, Bool.or_false _, Bool.or_false _, rfl, rfl,
    congrArg (s'.hostLog ++ ·) completes⟩

end Sys2Proof.Machine
end

section
/-!
PROOF. PUTS of a string sends one data session: it opens the session, after the pre-scan if hardened, sends each character, and closes at the
sentinel (42_text_output R143, R149-R151, R154, R155; log entry 7).
-/

namespace Sys2Proof.Machine

/-! A command that completes later on. -/

/-- A command that the line actions `ms` finish is complete. -/
theorem Drained.finishes {s t : State} {ms : List Micro} {x : Nat} {i : Instr} (h : Drained s t ms []) (hx : s.carrier = some x)
    (hi : s.cmdr = encode i) : Completed s t x i (actionsOf ms) (s.lines.run ms) s.faults where
  trace := h.trace
  lines := h.lines
  busy := h.busy
  hung := h.hung
  pending := h.pending
  cmdr := h.cmdr.trans hi
  errIll := h.errIll
  errOor := h.errOor
  errTimeout := h.errTimeout
  cmdQueue := h.cmdQueue
  carrier := h.carrier
  waiting := h.waiting
  faults := h.faults
  hostLog := by simpa [State.completion, hx] using h.hostLog
  riseOrder := h.riseOrder
  cfg := h.cfg

/-- A command that completes after the line actions `ms` has performed them too. -/
theorem Drained.completed {s r t : State} {ms rest : List Micro} {x : Nat} {i : Instr} {acts : List LineAction} {fin : Lines}
    {faults : List Fault} (h : Drained s r ms rest) (hne : rest ≠ []) (k : Completed r t x i acts fin faults) :
    Completed s t x i (actionsOf ms ++ acts) fin faults where
  trace := by rw [k.trace, h.trace, List.append_assoc]
  lines := k.lines
  busy := k.busy
  hung := k.hung
  pending := k.pending
  cmdr := k.cmdr
  errIll := k.errIll.trans h.errIll
  errOor := k.errOor.trans h.errOor
  errTimeout := k.errTimeout.trans h.errTimeout
  cmdQueue := k.cmdQueue.trans h.cmdQueue
  carrier := k.carrier
  waiting := k.waiting.trans h.waiting
  faults := k.faults
  hostLog := by rw [k.hostLog, h.hostLog, if_neg hne]
  riseOrder := k.riseOrder.trans h.riseOrder
  cfg := k.cfg.trans h.cfg

/-! The loop of PUTS. -/

/-- The payload of the characters with the glyphs `gs` (42_text_output R144). -/
def textPayload (gs : List (Vector Byte 5)) : List Byte := gs.flatMap fun g => 0x00 :: g.toList

/-- A glyph that may be sent for a character: the table's where it is in range, else any (42_text_output R142, R143). -/
def MaySend (p : Params) (c : Byte) (g : Vector Byte 5) : Prop := inRange p c = true → g.toList = tableGlyph p c

theorem exists_glyph_maySend {p : Params} (hl : p.legal = true) (d : Draws) (c : Byte) :
    ∃ g : Vector Byte 5, g.toList = glyph p d c ∧ MaySend p c g := by
  obtain ⟨g, hg⟩ := exists_glyph_vector p d c
  exact ⟨g, hg, fun hin => hg.trans (glyph_of_inRange hl d hin)⟩

/-- The payload of in-range characters is the table's. -/
theorem textPayload_of_inRange {p : Params} {cs : List Byte} {gs : List (Vector Byte 5)} (h : List.Forall₂ (MaySend p) cs gs)
    (hin : ∀ c ∈ cs, inRange p c = true) : textPayload gs = cs.flatMap fun c => 0x00 :: tableGlyph p c := by
  induction h with
  | nil => rfl
  | cons hg _ ih =>
    obtain ⟨hc, hcs⟩ := List.forall_mem_cons.mp hin
    rw [textPayload, List.flatMap_cons, List.flatMap_cons, hg hc]
    exact congrArg _ (ih hcs)

/-- Each character has six bytes (42_text_output R154). -/
theorem textPayload_length (gs : List (Vector Byte 5)) : (textPayload gs).length = 6 * gs.length := by
  simp [textPayload, List.length_flatMap, Nat.mul_comm]

/-- The command `i` of the context `x` sends the text at `a` in its data session, after the line actions `ms`. -/
structure State.SendsText (s : State) (p : Params) (x : Nat) (i : Instr) (a : StrAddr) (ms : List Micro) : Prop where
  busy : s.busy = true
  hung : s.hung = false
  carrier : s.carrier = some x
  cmdr : s.cmdr = encode i
  cfg : s.cfg = p
  sptr : s.sptr = a
  pending : s.pending = ms ++ [.nextChar]
  isAct : ∀ m ∈ ms, m.isAct = true
  nonempty : ms ≠ []

section

variable {p : Params} {x : Nat} {i : Instr}

/-- The line actions before the loop's next turn are performed. -/
theorem State.SendsText.drain {s : State} {a : StrAddr} {ms : List Micro} (h : s.SendsText p x i a ms) {n : Nat}
    (hc : s.Calm (ms.length + n)) :
    ∃ r, Host.Core.run Sys2Proof.core ms.length s = .next r ∧ Drained s r ms [.nextChar] ∧ r.Calm n := by
  obtain ⟨r, hr, hd⟩ := Machine.drain h.isAct h.busy h.hung h.pending h.nonempty (hc.mono (by omega))
  exact ⟨r, hr, hd, hc.run hr hd.waiting hd.carrier hd.cmdQueue⟩

/-- At the sentinel the loop of PUTS puts the stop sequence before what is pending. -/
theorem step_nextChar_of_sentinel {s : State} {ms : List Micro} (h : s.EngineMoves) (hp : s.pending = .nextChar :: ms)
    (he : strRead s.cfg s.sptr = Config.sentinel) : step s = .next { s.latch with pending := txStop ++ ms } := by
  rw [step_perform h hp, State.perform]
  rcases nextCharStep_cases (s.latch.load ms) with ⟨-, stops⟩ | ⟨hne, -⟩
  · rw [stops]
    rfl
  · exact absurd he hne

/-- At the sentinel the session is closed and the command completes. -/
theorem text_closes {s : State} {a : StrAddr} {ms : List Micro} (h : s.SendsText p x i a ms) (he : strRead p a = Config.sentinel)
    (hc : s.Calm (ms.length + 4)) :
    ∃ t, Host.Core.run Sys2Proof.core (ms.length + 4) s = .next t ∧
      Completed s t x i (actionsOf ms ++ stopActions) Lines.idle s.faults := by
  obtain ⟨r, hr, hd, calm⟩ := h.drain hc
  have hstep := step_nextChar_of_sentinel (calm.engineMoves hd.busy hd.hung) hd.pending (by rw [hd.cfg, hd.sptr, h.cfg, h.sptr, he])
  obtain ⟨t, ht, hd'⟩ := Machine.drain (s := { r.latch with pending := txStop ++ [] }) (rest := [])
    txStop_isAct hd.busy hd.hung rfl (by simp [txStop]) (calm.step hstep rfl rfl rfl)
  have done := hd'.finishes (hd.carrier.trans h.carrier) (hd.cmdr.trans h.cmdr)
  refine ⟨t, (run_add 4 hr).trans ((run_succ 3 hstep).trans ht), hd.completed (by simp) ?_⟩
  rw [← hd.faults]
  exact { done with }

/-- At another character the loop takes a turn: it sends the character's six bytes next, and goes on at the next address. What completes from
there on has performed the line actions before the turn too. -/
theorem text_turn (hl : p.legal = true) {s : State} {a : StrAddr} {ms : List Micro} (h : s.SendsText p x i a ms)
    (hne : strRead p a ≠ Config.sentinel) {b n : Nat} (hb : ∀ d, (txBytes (charPayload p d (strRead p a))).length ≤ b)
    (hc : s.Calm (ms.length + (b + n + 1))) :
    ∃ g xs r, MaySend p (strRead p a) g ∧ actionsOf xs = (0x00 :: g.toList).flatMap byteActions ∧
      Host.Core.run Sys2Proof.core (ms.length + 1) s = .next r ∧ r.SendsText p x i (a + 1) xs ∧ r.Calm (xs.length + n) ∧
      ∀ {t acts fin}, Completed r t x i acts fin r.faults → Completed s t x i (actionsOf ms ++ acts) fin s.faults := by
  obtain ⟨r, hr, hd, calm⟩ := h.drain hc
  obtain ⟨cfg, sptr⟩ : r.cfg = p ∧ r.sptr = a := ⟨hd.cfg.trans h.cfg, hd.sptr.trans h.sptr⟩
  generalize hxs : txBytes (charPayload p (r.inputAt 0).draws (strRead p a)) = xs
  have length : xs.length ≤ b := hxs ▸ hb _
  have hstep : step r = .next (r.charTaken xs) := by
    rw [← cfg, ← sptr] at hne hxs
    rw [← hxs]
    exact step_nextChar (calm.engineMoves hd.busy hd.hung) hd.pending hne
  obtain ⟨g, hg, hmay⟩ := exists_glyph_maySend hl (r.inputAt 0).draws (strRead p a)
  refine ⟨g, xs, r.charTaken xs, hmay, ?_, (run_add 1 hr).trans (run_one hstep), ?_, (calm.step hstep rfl rfl rfl).mono (by omega),
    fun k => ?_⟩
  · rw [← hxs, actionsOf_txBytes, charPayload_snd, charBytes, hg]
  · exact {
      busy := hd.busy, hung := hd.hung, carrier := hd.carrier.trans h.carrier, cmdr := hd.cmdr.trans h.cmdr, cfg := cfg
      sptr := congrArg (· + 1) sptr, pending := rfl, isAct := hxs ▸ txBytes_isAct _
      nonempty := by simp [← hxs, txBytes, charPayload, txByte] }
  · rw [← hd.faults]
    exact hd.completed (by simp) { k with }

/-- PUTS sends the `n` characters of its string and closes the session, where each of them takes at most `bound` line actions. -/
theorem text_completes {bound : Byte → Nat} (hl : p.legal = true) : ∀ {n : Nat} {a : StrAddr} {s : State} {ms : List Micro},
    s.SendsText p x i a ms → isString p a n = true →
    (∀ c ∈ strChars p a n, ∀ d, (txBytes (charPayload p d c)).length ≤ bound c) →
    s.Calm (ms.length + (((strChars p a n).map fun c => 1 + bound c).sum + 4)) →
    ∃ gs t, List.Forall₂ (MaySend p) (strChars p a n) gs ∧
      Host.Core.run Sys2Proof.core (ms.length + n + ((textPayload gs).map byteActionCount).sum + 4) s = .next t ∧
      Completed s t x i (actionsOf ms ++ ((textPayload gs).flatMap byteActions ++ stopActions)) Lines.idle s.faults
  | 0, a, s, ms, h, hs, _, hc => by
    obtain ⟨t, ht, done⟩ := text_closes h (by simpa [isString] using hs) hc
    exact ⟨[], t, .nil, ht, done⟩
  | n + 1, a, s, ms, h, hs, hb, hc => by
    obtain ⟨hb0, hbs⟩ := List.forall_mem_cons.mp hb
    obtain ⟨hne, hs⟩ := Bool.and_eq_true_iff.mp hs
    rw [strChars, List.map_cons, List.sum_cons] at hc
    obtain ⟨g, xs, r, hg, acts, hr, taken, calm, after⟩ := text_turn hl h (bne_iff_ne.mp hne) hb0
      (n := ((strChars p (a + 1) n).map fun c => 1 + bound c).sum + 4) (hc.mono (by omega))
    obtain ⟨gs, t, hgs, ht, done⟩ := text_completes hl taken hs hbs calm
    have payload : textPayload (g :: gs) = (0x00 :: g.toList) ++ textPayload gs := List.flatMap_cons
    have count : xs.length = ((0x00 :: g.toList).map byteActionCount).sum := by
      rw [← length_actionsOf taken.isAct, acts, flatMap_byteActions_length]
    have steps : ms.length + (n + 1) + ((textPayload (g :: gs)).map byteActionCount).sum + 4 =
        ms.length + 1 + (xs.length + n + ((textPayload gs).map byteActionCount).sum + 4) := by
      rw [payload, List.map_append, List.sum_append, ← count]
      omega
    refine ⟨g :: gs, t, .cons hg hgs, ?_, ?_⟩
    · rw [steps, run_add _ hr, ht]
    · rw [payload, List.flatMap_append, ← acts, List.append_assoc]
      exact after done

end

/-! The command from its acceptance on. -/

/-- The internal steps of the pre-scan of `n` characters and the sentinel (42_text_output R150). -/
def scanSteps (p : Params) (n : Nat) : Nat := if p.hardenGlyph then n + 1 else 0

/-- PUTS, after the pre-scan if hardened, begins its data session with the line actions that open it. -/
theorem puts_begins {s s' : State} {x : Nat} {a : StrAddr} (hA : s.Accepts x (encode (.puts a)) s') (hh : s'.hung = false) {n m : Nat}
    (hs : isString s'.cfg a n = true) (hin : s'.cfg.hardenGlyph = true → ∀ c ∈ strChars s'.cfg a n, inRange s'.cfg c = true)
    (hc : s'.Calm (scanSteps s'.cfg n + m)) :
    ∃ ms r, Host.Core.run Sys2Proof.core (1 + scanSteps s'.cfg n) s = .next ((s'.textAccepted a ms).scannedTo a r) ∧
      ((s'.textAccepted a ms).scannedTo a r).Calm m ∧ (∀ m ∈ ms, m.isAct = true) ∧
      actionsOf ms = startActions ++ byteActions s'.cfg.addrData := by
  unfold scanSteps at hc ⊢
  cases hg : s'.cfg.hardenGlyph with
  | false =>
    rw [hg] at hc
    obtain ⟨ms, hstep, hact, acts⟩ := step_puts hA hg
    exact ⟨ms, s', run_one hstep, hc.mono (by simp), hact, acts⟩
  | true =>
    rw [hg, if_pos rfl] at hc
    obtain ⟨r, hr, calm⟩ := puts_scans (m := m + 1) hA hh hg (hin hg) (hc.mono (by omega))
    have hstep := step_scan_of_sentinel (calm.engineMoves rfl hh) rfl (strRead_end_of_isString hs)
    exact ⟨txStart ++ txByte {} s'.cfg.addrData, ((s'.scanAccepted a).scannedTo (a + BitVec.ofNat 16 n) r).latch,
      (run_add 1 hr).trans (run_one hstep), calm.step hstep rfl rfl rfl, openBus_isAct _, by simp⟩

/-- PUTS of a string of `n` characters runs to its end, where each of them takes at most `bound` line actions. -/
theorem puts_completes {s s' : State} {x : Nat} {a : StrAddr} (hA : s.Accepts x (encode (.puts a)) s') (hh : s'.hung = false)
    (hl : s'.cfg.legal = true) {n : Nat} (hs : isString s'.cfg a n = true)
    (hin : s'.cfg.hardenGlyph = true → ∀ c ∈ strChars s'.cfg a n, inRange s'.cfg c = true) {bound : Byte → Nat}
    (hb : ∀ c ∈ strChars s'.cfg a n, ∀ d, (txBytes (charPayload s'.cfg d c)).length ≤ bound c)
    (hc : s'.Calm (scanSteps s'.cfg n +
      (2 + byteActionCount s'.cfg.addrData + (((strChars s'.cfg a n).map fun c => 1 + bound c).sum + 4)))) :
    ∃ gs t, List.Forall₂ (MaySend s'.cfg) (strChars s'.cfg a n) gs ∧
      Host.Core.run Sys2Proof.core (1 + (scanSteps s'.cfg n + (n + 1) + sessionActionCount s'.cfg.addrData (textPayload gs))) s = .next t ∧
      Completed s' t x (.puts a) (sessionActions s'.cfg.addrData (textPayload gs)) Lines.idle (faultsAfter s' s'.session .puts) := by
  obtain ⟨ms, r, hr, calm, hact, acts⟩ := puts_begins hA hh hs hin hc
  have length : ms.length = 2 + byteActionCount s'.cfg.addrData := by
    rw [← length_actionsOf hact, acts, List.length_append, byteActions_length]
    rfl
  have begun : ((s'.textAccepted a ms).scannedTo a r).SendsText s'.cfg x (.puts a) a ms := {
    busy := rfl, hung := hh, carrier := hA.carrier, cmdr := rfl, cfg := rfl, sptr := rfl, pending := rfl, isAct := hact
    nonempty := List.ne_nil_of_length_pos (by omega) }
  obtain ⟨gs, t, hgs, ht, done⟩ := text_completes hl begun hs hb (length ▸ calm)
  have steps : 1 + (scanSteps s'.cfg n + (n + 1) + sessionActionCount s'.cfg.addrData (textPayload gs)) =
      1 + scanSteps s'.cfg n + (ms.length + n + ((textPayload gs).map byteActionCount).sum + 4) := by
    rw [sessionActionCount]
    omega
  have session : sessionActions s'.cfg.addrData (textPayload gs) =
      actionsOf ms ++ ((textPayload gs).flatMap byteActions ++ stopActions) := by
    rw [sessionActions, acts, List.append_assoc]
  refine ⟨gs, t, hgs, ?_, ?_⟩
  · rw [steps, run_add _ hr, ht]
  · rw [session]
    exact { done with }

/-- Settles O22: by `puts_completes`; each in-range character takes the line actions of its table bytes. -/
theorem putsRunsToItsEnd : Obligations.PutsRunsToItsEnd := by
  rintro s s' x a n hA hh hl hs hin payload rfl steps rfl hc
  have exact_bound : ∀ c ∈ strChars s'.cfg a n, ∀ d,
      (txBytes (charPayload s'.cfg d c)).length ≤ ((0x00 :: tableGlyph s'.cfg c).map byteActionCount).sum := by
    intro c hc d
    rw [txBytes_length, charPayload_snd, charBytes, glyph_of_inRange hl d (hin c hc)]
  have total : ((strChars s'.cfg a n).map fun c => 1 + ((0x00 :: tableGlyph s'.cfg c).map byteActionCount).sum).sum =
      n + (((strChars s'.cfg a n).flatMap fun c => 0x00 :: tableGlyph s'.cfg c).map byteActionCount).sum := by
    rw [List.sum_map_add, List.map_const', strChars_length, List.sum_replicate, smul_eq_mul, Nat.mul_one, List.map_flatMap,
      List.flatMap_def, List.sum_flatten, List.map_map]
    rfl
  obtain ⟨gs, t, hgs, ht, done⟩ := puts_completes hA hh hl hs (fun _ => hin) exact_bound (hc.mono (by
    rw [total, sessionActionCount, scanSteps]
    omega))
  have count : gs.length = n := by rw [← hgs.length_eq, strChars_length]
  rw [← textPayload_of_inRange hgs hin]
  exact ⟨count ▸ textPayload_length gs, t, ht, done⟩

/-- Settles O23: by `puts_completes`; a character takes at most 210 line actions. -/
theorem putsSendsOneSessionForAnyString : Obligations.PutsSendsOneSessionForAnyString := by
  intro s s' x a n hA hh hl hs hin hc
  have scan : scanSteps s'.cfg n ≤ n + 1 := by
    unfold scanSteps
    split_ifs <;> omega
  have bound : ((strChars s'.cfg a n).map fun _ => 1 + 210).sum = 211 * n := by
    rw [List.map_const', List.sum_replicate, strChars_length, smul_eq_mul, Nat.mul_comm]
  have addr := byteActionCount_le s'.cfg.addrData
  obtain ⟨gs, t, hgs, ht, done⟩ := puts_completes hA hh hl hs hin (bound := fun _ => 210) (fun c _ d => charBytes_length_le _ d c)
    (hc.mono (by omega))
  obtain ⟨length, zip⟩ := List.forall₂_iff_zip.mp hgs
  rw [strChars_length] at length
  exact ⟨gs, _, t, length.symm, fun _ hy => zip hy, length ▸ textPayload_length gs, ht, done⟩

end Sys2Proof.Machine
end

section
/-!
PROOF. SHIFT and CLEAR run to their end: SHIFT in one command-mode session, CLEAR in its three sessions (43_display_maintenance R160-R165).
-/

namespace Sys2Proof.Machine

/-- SHIFT is accepted with its session as its expansion (43_display_maintenance R160). -/
theorem exec_shift (s : State) (o : Byte) :
    exec (.shift o) s = .next { s with
      cmdr := encode (.shift o), busy := true, pending := session s.cfg.addrCmd (plainBytes [s.cfg.shiftCmd, o])
      faults := faultsAfter s s.session .shift } := rfl

/-- CLEAR is accepted with its three sessions as its expansion (43_display_maintenance R164). -/
theorem exec_clear (s : State) :
    exec .clear s = .next { s with
      cmdr := encode .clear, busy := true, pending := clearExpansion s.cfg, faults := faultsAfter s s.session .clear } := rfl

/-- The micro-steps of CLEAR, session by session; each zero byte takes 27 (43_display_maintenance R165). -/
theorem clearExpansion_length (p : Params) :
    (clearExpansion p).length = sessionActionCount p.addrCmd [0x00, 0x10, p.pageMarker] +
      (5 + byteActionCount p.addrData + 27 * (128 * p.pageCount)) + sessionActionCount p.addrCmd [p.shiftCmd, 0x00] := by
  have zeros := sessionActions_zeros_length p.addrData (128 * p.pageCount)
  rw [← length_actionsOf (clearExpansion_isAct p), actionsOf_clearExpansion, clearActions, List.length_append, List.length_append,
    sessionActions_length, sessionActions_length p.addrCmd [p.shiftCmd, 0x00], zeros, byteActionCount]
  omega

theorem clearExpansion_ne_nil (p : Params) : clearExpansion p ≠ [] := by
  simp [clearExpansion, shiftExpansion, session_ne_nil]

/-- Settles O20: by `session_command_completes`; the offset is sent as it is. -/
theorem shiftRunsToItsEnd : Obligations.ShiftRunsToItsEnd := by
  intro s s' c o hA hh hc
  exact session_command_completes hA (exec_shift s' o) (plainBytes_snd _) hh hc

/-- Settles O21: by `command_completes`, with the actions, the length and the end of the three sessions. -/
theorem clearRunsToItsEnd : Obligations.ClearRunsToItsEnd := by
  intro s s' c hA hh hc
  rw [← clearExpansion_length] at hc ⊢
  rw [← actionsOf_clearExpansion, ← Lines.run_clearExpansion s'.cfg s'.lines]
  exact command_completes hA (exec_clear s') (clearExpansion_isAct s'.cfg) (clearExpansion_ne_nil s'.cfg) hh hc

end Sys2Proof.Machine
end

section
/-!
PROOF. The error bits have no effect (60_exceptions R182): with them and the host's answers forgotten, a step of a state is the step of the
state in which they were forgotten before.
-/

namespace Sys2Proof.Machine

/-- States that differ in the error bits and the host's answers alone. -/
def ErrorsApart (s t : State) : Prop := s.forgetErrors = t.forgetErrors

/-- Both outcomes go on, to states that differ in the error bits and the host's answers alone. -/
def ErrorsApartNext (o p : Host.Outcome State Fault Refusal) : Prop := ∃ s t, o = .next s ∧ p = .next t ∧ ErrorsApart s t

theorem ErrorsApart.next {s t : State} (h : ErrorsApart s t) : ErrorsApartNext (.next s) (.next t) := ⟨s, t, rfl, rfl, h⟩

section

variable (s : State)

/-- A stall is handled without a look at the error bits (60_exceptions R177). -/
theorem settle_errorsApart (a : LineAction) : ErrorsApart (s.settle a) (s.forgetErrors.settle a) := by
  refine ite_related (fun _ => ?_) fun _ => rfl
  show ErrorsApart (match s.cfg.stallPolicy with | .none => _ | .timeout => _) (match s.cfg.stallPolicy with | .none => _ | .timeout => _)
  cases s.cfg.stallPolicy with
  | none | timeout => exact ite_related (fun _ => rfl) fun _ => rfl

/-- A micro-step may set an error bit, and reads none. -/
theorem perform_errorsApart (m : Micro) : ErrorsApart (s.perform m) (s.forgetErrors.perform m) := by
  cases m with
  | act a u => exact settle_errorsApart ((s.emit a).update u) a
  | scan a => exact ite_related (fun _ => rfl) fun _ => ite_related (fun _ => rfl) fun _ => rfl
  | nextChar => exact ite_related (fun _ => rfl) fun _ => rfl
  | abort => rfl

theorem engineStep_errorsApart : ErrorsApart s.engineStep s.forgetErrors.engineStep := by
  refine ite_related (fun _ => rfl) fun _ => ?_
  show ErrorsApart (match s.pending with | [] => _ | m :: ms => _) (match s.pending with | [] => _ | m :: ms => _)
  cases s.pending with
  | nil => rfl
  | cons m ms => exact perform_errorsApart (s.load ms) m

/-- No command is refused or expanded otherwise for an error bit. -/
theorem exec_errorsApart (i : Instr) : ErrorsApartNext (exec i s) (exec i s.forgetErrors) := by
  cases i with
  | openBus a | writeByte b | closeBus | init | setcur c p | shift o | clear => exact ErrorsApart.next rfl
  | putc c | puts a => exact ErrorsApart.next (ite_related (fun _ => rfl) fun _ => rfl)

theorem acceptWord_errorsApart (w : Word) : ErrorsApartNext (acceptWord w s) (acceptWord w s.forgetErrors) := by
  unfold acceptWord
  cases decode w with
  | ok i => exact exec_errorsApart s i
  | error e => exact ErrorsApart.next rfl

/-- Of the accesses a STATUS read tells the error bits, in its answer alone, and a STATUS write clears some (10_state R34). -/
theorem serve_errorsApart (a : HostAccess) : ErrorsApartNext (s.serve a) (s.forgetErrors.serve a) := by
  refine ite_related (fun _ => ite_related (fun _ => ite_related (fun _ => ?accepted) fun _ => ?held) fun _ => ?cmdRead) fun _ =>
    ite_related (fun _ => ErrorsApart.next (ite_related (fun _ => rfl) fun _ => rfl)) fun _ => ?unmapped
  case accepted => exact acceptWord_errorsApart (s.carry a.ctx) a.data
  all_goals exact ErrorsApart.next rfl

theorem blockStep_errorsApart : ErrorsApartNext (blockStep s) (blockStep s.forgetErrors) := by
  refine ite_related (fun _ => (engineStep_errorsApart s).next) fun _ => ?_
  show ErrorsApartNext (match s.cmdQueue with | [] => _ | p :: rest => _) (match s.cmdQueue with | [] => _ | p :: rest => _)
  cases s.cmdQueue with
  | nil => exact ErrorsApart.next rfl
  | cons p rest => exact acceptWord_errorsApart (s.takeWrite p rest) p.word

theorem ownMove_errorsApart : ErrorsApartNext (ownMove s) (ownMove s.forgetErrors) := by
  show ErrorsApartNext (match s.ready with | some a => _ | none => _) (match s.ready with | some a => _ | none => _)
  cases s.ready with
  | some a => exact serve_errorsApart (s.release a) a
  | none => exact blockStep_errorsApart s

theorem move_errorsApart : ErrorsApartNext s.move s.forgetErrors.move := by
  show ErrorsApartNext (match s.inp.event with | some .reset => _ | some (.access a) => _ | none => _)
    (match s.inp.event with | some .reset => _ | some (.access a) => _ | none => _)
  cases s.inp.event with
  | some e =>
    cases e with
    | reset => exact ErrorsApart.next rfl
    | access a => exact ite_related (fun _ => ErrorsApart.next rfl) fun _ => serve_errorsApart s a
  | none => exact ownMove_errorsApart s

theorem step_errorsApart : ErrorsApartNext (step s) (step s.forgetErrors) := move_errorsApart s.latch

end

/-- A step keeps states that differ in the error bits and the host's answers alone so. -/
theorem step_forgetErrors {s₁ s₂ t₁ t₂ : State} (h : s₁.forgetErrors = s₂.forgetErrors) (h₁ : step s₁ = .next t₁)
    (h₂ : step s₂ = .next t₂) : t₁.forgetErrors = t₂.forgetErrors := by
  obtain ⟨r₁, r, e₁, e, apart₁⟩ := step_errorsApart s₁
  obtain ⟨r₂, r', e₂, e', apart₂⟩ := step_errorsApart s₂
  cases h₁.symm.trans e₁
  cases h₂.symm.trans e₂
  rw [h] at e
  cases e.symm.trans e'
  exact apart₁.trans apart₂.symm

/-- A relation between two states that every step of both keeps is kept by runs of the same length. -/
theorem run_related {R : State → State → Prop}
    (keeps : ∀ {s₁ s₂ t₁ t₂ : State}, R s₁ s₂ → step s₁ = .next t₁ → step s₂ = .next t₂ → R t₁ t₂) :
    ∀ {n : Nat} {s₁ s₂ t₁ t₂ : State}, R s₁ s₂ → Host.Core.run Sys2Proof.core n s₁ = .next t₁ →
      Host.Core.run Sys2Proof.core n s₂ = .next t₂ → R t₁ t₂
  | 0, s₁, s₂, _, _, h, h₁, h₂ => by
    cases (run_zero s₁).symm.trans h₁
    cases (run_zero s₂).symm.trans h₂
    exact h
  | n + 1, s₁, s₂, _, _, h, h₁, h₂ => by
    obtain ⟨r₁, e₁⟩ := step_next s₁
    obtain ⟨r₂, e₂⟩ := step_next s₂
    exact run_related keeps (keeps h e₁ e₂) ((run_succ n e₁).symm.trans h₁) ((run_succ n e₂).symm.trans h₂)

/-- Settles O51: by `step_forgetErrors`, step after step; what is observed reads neither the error bits nor the host's answers. -/
theorem errorBitsHaveNoEffect : Obligations.ErrorBitsHaveNoEffect := by
  intro n s₁ s₂ t₁ t₂ h h₁ h₂
  have ht : t₁.forgetErrors = t₂.forgetErrors := run_related step_forgetErrors h h₁ h₂
  exact ⟨(congrArg State.trace ht :), (congrArg State.lines ht :), (congrArg State.busy ht :), (congrArg State.faults ht :), ht⟩

end Sys2Proof.Machine
end

section
/-!
PROOF. A stall of a release action, the hang it can lead to and the timeout abort (60_exceptions R176-R178, 70_reset R216; log entries 9, 10).
-/

namespace Sys2Proof.Machine

section

variable {s : State} {a : LineAction}

/-- At an action that is no release the engine goes on. -/
theorem State.settle_of_not_release (ha : a.isRelease = false) : s.settle a = s.finish := by
  simp [State.settle, ha]

/-- Under NONE a stalled release hangs the engine or lets it go on, as the environment chooses. -/
theorem State.settle_none (ha : a.isRelease = true) (hs : s.inp.draws.stall = true) (hp : s.cfg.stallPolicy = .none) :
    s.settle a = if s.inp.draws.hang then s.hang else s.finish := by
  simp [State.settle, ha, hs, hp]

/-- Under TIMEOUT an SDA release is not sensed. -/
theorem State.settle_timeout_sdaRel (hp : s.cfg.stallPolicy = .timeout) : s.settle .sdaRel = s.finish := by
  simp [State.settle, hp]

/-- Under TIMEOUT a stalled SCL release leads to the abort. -/
theorem State.settle_timeout_sclRel (hs : s.inp.draws.stall = true) (hp : s.cfg.stallPolicy = .timeout) :
    s.settle .sclRel = s.load [.abort] := by
  simp [State.settle, LineAction.isRelease, hs, hp]

end

/-- The state of a line action's step before its line is looked at: the input is taken, the action and its update are done. -/
def State.acted (s : State) (a : LineAction) (u : Update) (ms : List Micro) : State := ((s.latch.load ms).emit a).update u

/-- A line action's step ends in what its line makes of it (60_exceptions R177). -/
theorem step_of_settle {s r : State} {a : LineAction} {u : Update} {ms : List Micro} (h : s.EngineMoves) (hp : s.pending = .act a u :: ms)
    (hr : (s.acted a u ms).settle a = r) : step s = .next r := by
  rw [step_perform h hp]
  exact congrArg _ hr

/-- Settles O28: the step performs the action, and the equations of `State.settle` say what comes of it. -/
theorem stallHandling : Obligations.StallHandling := by
  intro s a u ms h hp
  have goesOn (hr : (s.acted a u ms).settle a = (s.acted a u ms).finish) : step s = .next (s.continued a u ms) := step_of_settle h hp hr
  have ⟨_, _, hb, hh⟩ := h
  refine ⟨?_, fun hs ha hn => ?_, fun hs ht => ⟨?_, ?_⟩⟩
  · rintro (hs | rfl | rfl)
    · exact goesOn (State.settle_calm hs)
    all_goals exact goesOn (State.settle_of_not_release rfl)
  · have release : a.isRelease = true := by rcases ha with rfl | rfl <;> rfl
    have settled := State.settle_none (s := s.acted a u ms) release hs hn
    exact ⟨fun hg => goesOn (settled.trans (if_neg (Bool.eq_false_iff.mp hg))),
      fun hg => ⟨_, step_of_settle h hp (settled.trans (if_pos hg)), rfl, hb, rfl, rfl, rfl⟩⟩
  · rintro rfl
    exact goesOn (State.settle_timeout_sdaRel ht)
  · rintro rfl
    exact ⟨_, step_of_settle h hp (State.settle_timeout_sclRel hs ht), rfl, hb, hh, rfl⟩

/-- A step without RST leaves a hung engine hung, and its command where it stands. -/
theorem hung_step {s : State} (hh : s.hung = true) (hb : s.busy = true) (hr : (s.inputAt 0).event ≠ some .reset) :
    ∃ t, step s = .next t ∧ t.hung = true ∧ StandsStill s t := by
  rcases busy_step hb hr with ⟨t, h, hung, still⟩ | ⟨-, -, h⟩
  · exact ⟨t, h, hung.trans hh, still⟩
  · rw [engineStep_hung (s := s.latch) hh] at h
    exact ⟨s.latch, h, hh, ⟨rfl, rfl, rfl, id, rfl⟩, rfl, rfl, rfl⟩

/-- So does a run without RST. -/
theorem hung_run : ∀ {n : Nat} {s : State}, s.hung = true → s.busy = true → s.NoReset n →
    ∃ t, Host.Core.run Sys2Proof.core n s = .next t ∧ t.hung = true ∧ StandsStill s t
  | 0, s, hh, _, _ => ⟨s, run_zero s, hh, .refl s⟩
  | n + 1, s, hh, hb, hr => by
    obtain ⟨r, hstep, hr_hung, hsr⟩ := hung_step hh hb (hr 0 (Nat.succ_pos n))
    obtain ⟨t, hrun, ht_hung, hrt⟩ := hung_run hr_hung (hsr.busy.trans hb) (hr.step hstep)
    exact ⟨t, (run_succ n hstep).trans hrun, ht_hung, hsr.trans hrt⟩

/-- Settles O29: by `hung_run`. -/
theorem hungUntilReset : Obligations.HungUntilReset := by
  intro s n hh hb hr
  obtain ⟨t, hrun, hung, still⟩ := hung_run hh hb hr
  exact ⟨t, hrun, hung, still.busy.trans hb, still.trace, still.lines, still.pending, still.carrier, still.completions⟩

/-- Settles O30: the stalled release leaves the abort alone pending, and the next step is the abort. -/
theorem timeoutAborts : Obligations.TimeoutAborts := by
  intro s u ms h hp ht hs hnext
  have release : step s = .next ((s.acted .sclRel u ms).load [.abort]) := step_of_settle h hp (State.settle_timeout_sclRel hs ht)
  obtain ⟨-, ready, hb, hh⟩ := h
  have moves : ((s.acted .sclRel u ms).load [.abort]).EngineMoves :=
    ⟨(congrArg Input.event (step_inputAt release 0)).trans hnext, ready, hb, hh⟩
  have abort := step_perform (m := .abort) (ms := []) moves rfl
  refine ⟨_, (run_succ 1 release).trans (run_one abort), ?_⟩
  exact ⟨List.append_assoc .., rfl, Bool.or_true _, Bool.or_false _, Bool.or_false _, rfl, rfl, hh, rfl, rfl, rfl, rfl, rfl⟩

end Sys2Proof.Machine
end

section
/-!
PROOF. The fault set only grows (60_exceptions R172).
-/

namespace Sys2Proof.Machine

/-- Recording a fault keeps those recorded before. -/
theorem subset_addFault (f : Fault) (fs : List Fault) : fs ⊆ addFault f fs := by
  unfold addFault
  split_ifs
  · exact List.Subset.refl fs
  · exact List.subset_append_left fs [f]

theorem Worked.faults_subset {s t : State} (h : Worked s t) : s.faults ⊆ t.faults := by
  rcases h.faults with hf | ⟨f, hf⟩ <;> rw [hf]
  · exact List.Subset.refl _
  · exact subset_addFault f s.faults

theorem Served.faults_subset {s t : State} {a : HostAccess} (h : Served s a t) : s.faults ⊆ t.faults := by
  cases h with
  | unmapped => exact subset_addFault _ s.faults
  | held _ _ | cmdRead _ | statusWrite _ _ | statusRead _ => exact List.Subset.refl _

/-- RST keeps the fault set, and may record a fault of its own (70_reset R203). -/
theorem State.resetBlock_faults_subset (s : State) : s.faults ⊆ s.resetBlock.faults := by
  show s.faults ⊆ if s.session then addFault .resetInSession s.faults else s.faults
  split_ifs
  · exact subset_addFault _ s.faults
  · exact List.Subset.refl _

/-- No step clears a fault. -/
theorem step_faults_subset {s t : State} (h : step s = .next t) : s.faults ⊆ t.faults := by
  rcases step_cases s with ⟨-, e⟩ | ⟨a, -, -, e⟩ | ⟨a, r, t', hr, ht, e⟩ | ⟨c, w, s', hA, e⟩ | ⟨-, -, -, e⟩ | ⟨-, -, -, -, e⟩ <;>
    rw [e] at h
  · cases h
    exact s.latch.resetBlock_faults_subset
  · cases h
    exact List.Subset.refl _
  · cases h
    rw [hr.eq] at ht
    exact ht.faults_subset
  · have hw := acceptWord_worked h
    rw [hA.eq] at hw
    exact hw.faults_subset
  · cases h
    exact (engineStep_worked s.latch).faults_subset
  · cases h
    exact List.Subset.refl _

/-- Settles O45: by `step_faults_subset`, step after step. -/
theorem faultsAreNeverCleared : Obligations.FaultsAreNeverCleared :=
  fun _ _ _ h _ hf => run_induction (R := fun s t => s.faults ⊆ t.faults) (fun _ => List.Subset.refl _) List.Subset.trans
    step_faults_subset h hf

end Sys2Proof.Machine
end

section
/-!
PROOF. What RST leaves and which CMD writes it ends (70_reset R200-R203; 10_state R35, R36; log entries 13, 14, 16).
-/

namespace Sys2Proof.Machine

/-- A step with RST resets the block, whatever it was doing (70_reset R200). -/
theorem step_of_reset {s : State} (h : (s.inputAt 0).event = some .reset) : step s = .next s.latch.resetBlock := by
  simp [step, h]

/-- STATUS after RST takes its value from the build alone (10_state R36). -/
theorem State.resetBlock_status (s : State) : s.resetBlock.status = resetStatus s.cfg := by
  simp only [State.status, State.resetBlock, State.reset, resetStatus]
  cases s.cfg.hardenGlyph <;> cases s.cfg.stallPolicy <;> decide

/-- A rise order is recorded where both lines were low, and only there (70_reset R202). -/
theorem State.isSome_resetRise (s : State) : s.resetRise.isSome = true ↔ s.sdaDrv = .low ∧ s.sclDrv = .low := by
  unfold State.resetRise
  split_ifs with h <;> simp [h]

/-- Writes held while no command is in progress outlast RST where the draw says so (log entry 13). -/
theorem State.resetBlock_held_survive {s : State} (h : (!s.busy && s.inp.draws.heldSurvive) = true) :
    s.resetBlock.cmdQueue = s.cmdQueue ∧ s.resetBlock.hostLog = s.hostLog ++ s.completion := by
  simp [State.resetBlock, State.heldAfterReset, State.resetAnswers, h]

/-- All other held writes complete at RST, after the one that carries the abandoned command, and run nothing (70_reset R201). -/
theorem State.resetBlock_held_end {s : State} (h : (!s.busy && s.inp.draws.heldSurvive) = false) :
    s.resetBlock.cmdQueue = [] ∧
      s.resetBlock.hostLog = s.hostLog ++ s.completion ++ s.cmdQueue.map fun p => .commandDone p.ctx := by
  simp [State.resetBlock, State.heldAfterReset, State.resetAnswers, h]

/-- Settles O38: past the reset values the held writes decide, which all end where a command is abandoned, and where none is as the draw says. -/
theorem resetEffect : Obligations.ResetEffect := by
  intro s hr
  have abandoned (hb : s.busy = true) : (!s.latch.busy && s.latch.inp.draws.heldSurvive) = false := by simp [hb]
  refine ⟨s.latch.resetBlock, step_of_reset hr, rfl, rfl, rfl, rfl, rfl, rfl, rfl, rfl, rfl, s.latch.resetBlock_status, rfl, rfl,
    fun hb => State.resetBlock_held_end (abandoned hb), fun _ => ?_, rfl, s.latch.isSome_resetRise⟩
  cases survive : !s.latch.busy && s.latch.inp.draws.heldSurvive with
  | true => exact .inl (State.resetBlock_held_survive survive)
  | false => exact .inr (State.resetBlock_held_end survive)

end Sys2Proof.Machine
end
